-- ==== Sys2Proof/Word.lean ====
section
/-! DEFINITION. The value types of the pulse codec block (spec/00_scope.md R5, R7). Times, intervals and durations have no
type here: their widths `TW` and `DW` are OPEN parameters, so they are natural numbers that the operations wrap modulo
`2^TW` or take from a `DW`-bit `rate`, and the machine's invariant says that they fit (log 14). A one-bit line level is a
`Bool`, `true` for active (spec/30_encoding.md R89). -/

namespace Sys2Proof

/-- One operation word on the `op` port (30_encoding R80). -/
abbrev OpWord := BitVec 64

/-- One byte of BUF (20_memory R60). -/
abbrev Byte := BitVec 8

/-- A BUF address operand, `AW = 32` bits (00_scope R5, D7). -/
abbrev Addr := BitVec 32

/-- A decoder identifier, `PW = 32` bits, opaque (10_state R41). -/
abbrev DecoderId := BitVec 32

end Sys2Proof
end

