-- ==== Sys2Proof/Config.lean ====
section
/-! DEFINITION. What an implementation of the block fixes: the parameters of spec/00_scope.md R5 with their
constraints R6, and the free values of the model. -/

namespace Sys2Proof

/-- The parameters of 00_scope R5. Those the spec calls OPEN are fields, so that the model takes them as an argument;
the defaults are the spec's. The decided widths (SCW, CW, LW, AW, PW, PCW, EDW) are the widths of the types used.
DESIGN CHOICE (log 1): the record is carried unchanged in `State`. -/
structure Params where
  /-- `TW`: width of `now`, of timestamps and of intervals. -/
  tw : Nat := 16
  /-- `DW`: width of a duration in the timing table and on the sink. -/
  dw : Nat := 16
  /-- `NDEC_MAX`: largest number of decoder entries. -/
  ndecMax : Nat := 8
  /-- `T_SETTLE`: the short edge-settle window, in ticks. -/
  tSettle : Nat := 100
  /-- `T_IDLE`: the longer line-idle window, in ticks. -/
  tIdle : Nat := 1000
  /-- `T_RESET_QUIET`: the quiet delay between the two reset phases. -/
  tResetQuiet : BitVec 16 := 20
  /-- `PULSE_THRESHOLD`: the `pulse_count` value at or above which the transmitter is held off. -/
  pulseThreshold : BitVec 8 := 3
  /-- `ENABLE_DELAY_DEFAULT`. -/
  enableDelayDefault : BitVec 16 := 50
  /-- `ENABLE_DELAY_BUSY`: the value of `enable_delay` once an inbound frame has been queued. -/
  enableDelayBusy : BitVec 16 := 200
  /-- `rate` as a table: the codes whose duration is not the code itself (DESIGN CHOICE, log 13). -/
  rate : List (BitVec 8 × Nat) := []
  /-- The granularity of ENCODE (41_encoder R120, D31): `false` one atomic step, `true` one step per sink call
  (DESIGN CHOICE, log 9). -/
  sequenced : Bool := false
  deriving DecidableEq, Repr

/-- The constraints the spec puts on its parameters (00_scope R6). `0 <= T_RESET_QUIET < 2^EDW` and the upper bounds
of the 8-bit and 16-bit parameters hold by their types. -/
abbrev Params.Valid (p : Params) : Prop :=
  2 ≤ p.tw ∧ 1 ≤ p.tSettle ∧ p.tSettle < p.tIdle ∧ p.tSettle + p.tIdle < 2 ^ p.tw ∧
    1 ≤ p.pulseThreshold.toNat ∧ p.enableDelayDefault.toNat < p.enableDelayBusy.toNat

namespace Config

/-! The free values: what a CAP register that nothing has written since the last INIT would read as. The spec gives an
unwritten register no value and shows that no run reads one (10_state R50, 70_reset_and_hazards R213 (l)). Each is
applied to the number of INITs so far. They have no body: nothing can be proved of them (log 3). -/

/-- Free value of an unwritten `last_edge_time` (log 3). -/
opaque unwrittenLastEdgeTime : Nat → Nat

/-- Free value of an unwritten `this_interval` (log 3). -/
opaque unwrittenThisInterval : Nat → Nat

/-- Free value of an unwritten `this_level` (log 3). -/
opaque unwrittenThisLevel : Nat → Bool

/-- Free value of an unwritten `cap_time` (log 3). -/
opaque unwrittenCapTime : Nat → Nat

/-- Free value of an unwritten `cap_level` (log 3). -/
opaque unwrittenCapLevel : Nat → Bool

/-- Free value of an unwritten `cmp` (log 3). -/
opaque unwrittenCmp : Nat → Nat

end Config

end Sys2Proof
end

