-- ==== Sys2Proof/Syntax.lean ====
section
/-! DEFINITION. The seventeen operations of the block, one constructor per row of spec/opcode_table.json
(spec/30_encoding.md R83), with their operands (R81, R82). -/

namespace Sys2Proof

/-- An operation. Operands are the unsigned fields of the operation word as they stand (30_encoding R82). -/
inductive Instr where
  /-- INIT: every piece of state to its reset value (40_config R100). -/
  | init
  /-- DEC_REGISTER id: append a decoder entry (40_config R101). -/
  | decRegister (id : BitVec 32)
  /-- TT_SETUP sync, @codes: load the symbol timing table (40_config R102). -/
  | ttSetup (sync : BitVec 8) (codes : Addr)
  /-- CFG_FORMAT w, order, pmode: the three format registers (40_config R103). `pmode` is the raw 3-bit code. -/
  | cfgFormat (w : BitVec 4) (order : BitVec 1) (pmode : BitVec 3)
  /-- CFG_SINK param (40_config R104). -/
  | cfgSink (param : BitVec 32)
  /-- ENCODE @base, len (41_encoder R110). -/
  | encode (base : Addr) (len : BitVec 24)
  /-- LINE_EDGE level (42_capture_events R130). -/
  | lineEdge (level : Bool)
  /-- TICK n (42_capture_events R131). -/
  | tick (n : BitVec 32)
  /-- EDGE_ISR (42_capture_events R136). -/
  | edgeIsr
  /-- TIMEOUT_ISR (42_capture_events R140). -/
  | timeoutIsr
  /-- RD_DISABLE (43_requests R150). -/
  | rdDisable
  /-- RD_ENABLE (43_requests R151). -/
  | rdEnable
  /-- FRAME_QUEUED (43_requests R152). -/
  | frameQueued
  /-- RUN_IVAL (44_deferred_tasks R161). -/
  | runIval
  /-- RUN_RESET1 (44_deferred_tasks R162). -/
  | runReset1
  /-- RUN_RESET2 (44_deferred_tasks R164). -/
  | runReset2
  /-- RUN_WEN (44_deferred_tasks R165). -/
  | runWen
  deriving DecidableEq, Repr

end Sys2Proof
end

