-- ==== Sys2Proof/WellFormed.lean ====
section
/-! DEFINITION. Which operations are legal by their operands alone, in whatever state they are presented
(spec/20_memory.md R62, R63; spec/30_encoding.md R86). Everything else about an operand holds by its width. -/

namespace Sys2Proof

/-- An operation whose operands no state could accept is ill-formed: a rate-code array or a buffer that passes the
last BUF address (R62, R63), or a reserved parity code (R86). The block refuses such an operation. -/
def Instr.wellFormed : Instr → Bool
  | .ttSetup _ codes => decide (codes.toNat + 4 < 2 ^ 32)
  | .cfgFormat _ _ pmode => decide (pmode.toNat < 5)
  | .encode base len => decide (len.toNat = 0 ∨ base.toNat + len.toNat - 1 < 2 ^ 32)
  | .init | .decRegister _ | .cfgSink _ | .lineEdge _ | .tick _ | .edgeIsr | .timeoutIsr | .rdDisable | .rdEnable
  | .frameQueued | .runIval | .runReset1 | .runReset2 | .runWen => true

/-- Well-formedness as a proposition. -/
abbrev Instr.WellFormed (i : Instr) : Prop := i.wellFormed = true

end Sys2Proof
end

