-- ==== Sys2Proof/Decode.lean ====
section
/-! DEFINITION. The decoder and the encoder of the 64-bit operation word (spec/30_encoding.md R80 to R84, R92). -/

namespace Sys2Proof

/-- Why a word spells no operation (30_encoding R84). -/
inductive DecodeError where
  /-- `opc` is not one of the seventeen listed. -/
  | unassignedOpcode (opc : BitVec 8)
  /-- `opc` is listed but a bit its format does not use is not zero. -/
  | mustBeZero (opc : BitVec 8)
  deriving DecidableEq, Repr

/-- `opc`: word bits [63:56] (R80). -/
def opcField (x : OpWord) : BitVec 8 := x.extractLsb' 56 8

/-- `a`: word bits [55:32] (R80). -/
def aField (x : OpWord) : BitVec 24 := x.extractLsb' 32 24

/-- `b`: word bits [31:0] (R80). -/
def bField (x : OpWord) : BitVec 32 := x.extractLsb' 0 32

/-- The decoded operation if the must-be-zero bits are zero, else the rejection of R84. -/
def ifZero (unusedZero : Bool) (x : OpWord) (i : Instr) : Except DecodeError Instr :=
  if unusedZero then .ok i else .error (.mustBeZero (opcField x))

/-- Format Z: `a` and `b` must be 0 (R81). -/
def formatZ (x : OpWord) (i : Instr) : Except DecodeError Instr :=
  ifZero (aField x == 0 && bField x == 0) x i

/-- Format B: `a` must be 0; `b` is one 32-bit operand (R81). -/
def formatB (x : OpWord) (f : BitVec 32 → Instr) : Except DecodeError Instr :=
  ifZero (aField x == 0) x (f (bField x))

/-- Format S: [55:40] must be 0; [39:32] is `sync`; `b` is `codes` (R81). -/
def formatS (x : OpWord) (f : BitVec 8 → BitVec 32 → Instr) : Except DecodeError Instr :=
  ifZero ((aField x).extractLsb' 8 16 == 0) x (f ((aField x).extractLsb' 0 8) (bField x))

/-- Format F: [55:40] must be 0; [39:37] `pmode`, [36] `order`, [35:32] `w`; `b` must be 0 (R81). -/
def formatF (x : OpWord) (f : BitVec 4 → BitVec 1 → BitVec 3 → Instr) : Except DecodeError Instr :=
  ifZero ((aField x).extractLsb' 8 16 == 0 && bField x == 0) x
    (f ((aField x).extractLsb' 0 4) ((aField x).extractLsb' 4 1) ((aField x).extractLsb' 5 3))

/-- Format E: `a` is `len`, `b` is `base` (R81). -/
def formatE (x : OpWord) (f : BitVec 32 → BitVec 24 → Instr) : Except DecodeError Instr :=
  .ok (f (bField x) (aField x))

/-- Format L: [55:33] must be 0; [32] is `level`; `b` must be 0 (R81). -/
def formatL (x : OpWord) (f : Bool → Instr) : Except DecodeError Instr :=
  ifZero ((aField x).extractLsb' 1 23 == 0 && bField x == 0) x (f ((aField x).getLsbD 0))

/-- The decoder: the opcode map of R83, total; every other word is rejected by name (R84). -/
def decode (x : OpWord) : Except DecodeError Instr :=
  match (opcField x).toNat with
  | 0x01 => formatZ x .init
  | 0x02 => formatB x .decRegister
  | 0x10 => formatS x .ttSetup
  | 0x11 => formatF x .cfgFormat
  | 0x12 => formatB x .cfgSink
  | 0x18 => formatE x .encode
  | 0x20 => formatL x .lineEdge
  | 0x21 => formatB x .tick
  | 0x28 => formatZ x .edgeIsr
  | 0x29 => formatZ x .timeoutIsr
  | 0x30 => formatZ x .rdDisable
  | 0x31 => formatZ x .rdEnable
  | 0x32 => formatZ x .frameQueued
  | 0x38 => formatZ x .runIval
  | 0x39 => formatZ x .runReset1
  | 0x3A => formatZ x .runReset2
  | 0x3B => formatZ x .runWen
  | _ => .error (.unassignedOpcode (opcField x))

/-- The host's numbering of an instruction's bits: `w` is the operation word itself, bit 0 its least significant bit,
the bits above `nbits` zero (R80: one length, one 64-bit word). -/
def tableWord (nbits w : Nat) : OpWord := BitVec.ofNat 64 (w % 2 ^ nbits)

/-- What the decoder reads from the instruction whose bits are `w`. -/
def decodeTableWord (nbits w : Nat) : Option Instr :=
  match decode (tableWord nbits w) with
  | .ok i => some i
  | .error _ => none

/-- `opc ++ a ++ b` (R80). -/
def opWord (opc : BitVec 8) (a : BitVec 24) (b : BitVec 32) : OpWord := opc ++ a ++ b

/-- The encoder: the written form of R92. -/
def encode : Instr → OpWord
  | .init => opWord 0x01 0 0
  | .decRegister id => opWord 0x02 0 id
  | .ttSetup sync codes => opWord 0x10 ((0 : BitVec 16) ++ sync) codes
  | .cfgFormat w order pmode => opWord 0x11 ((0 : BitVec 16) ++ pmode ++ order ++ w) 0
  | .cfgSink param => opWord 0x12 0 param
  | .encode base len => opWord 0x18 len base
  | .lineEdge level => opWord 0x20 ((0 : BitVec 23) ++ BitVec.ofBool level) 0
  | .tick n => opWord 0x21 0 n
  | .edgeIsr => opWord 0x28 0 0
  | .timeoutIsr => opWord 0x29 0 0
  | .rdDisable => opWord 0x30 0 0
  | .rdEnable => opWord 0x31 0 0
  | .frameQueued => opWord 0x32 0 0
  | .runIval => opWord 0x38 0 0
  | .runReset1 => opWord 0x39 0 0
  | .runReset2 => opWord 0x3A 0 0
  | .runWen => opWord 0x3B 0 0

end Sys2Proof
end

