-- ==== Sys2Proof/Machine/State.lean ====
section
/-! DEFINITION. The architectural state of the block (spec/10_state.md), the two output logs, the reasons a step can
stop, and the machine right after reset (spec/70_reset_and_hazards.md R201, R202). -/

namespace Sys2Proof.Machine

/-- `bit_order` (30_encoding R85). -/
inductive BitOrder where
  | msbFirst
  | lsbFirst
  deriving DecidableEq, Repr

/-- `parity_mode` (30_encoding R86); the reserved codes 5 to 7 are never held. -/
inductive ParityMode where
  | none
  | mark
  | space
  | odd
  | even
  deriving DecidableEq, Repr

/-- `overflow`, the mode of the capture pipeline (30_encoding R87, 10_state R28). -/
inductive Overflow where
  | first
  | armed
  | captured
  | reset
  | resetQuiet
  | resetDisable
  | resetDisableDeferred
  deriving DecidableEq, Repr

/-- `enc_phase` (30_encoding R91). -/
inductive EncPhase where
  | idle
  | sync
  | start
  | data
  | parity
  | endMark
  | idleMark
  deriving DecidableEq, Repr

/-- One sink invocation `emit(param, mark, space)` (00_scope R9). -/
structure SinkCall where
  param : BitVec 32
  mark : Nat
  space : Nat
  deriving DecidableEq, Repr

/-- One call of unit CAP on `cap_log` (00_scope R9). -/
inductive CapCall where
  /-- `on_interval(i, duration, level)`, the entry named by its decoder identifier. -/
  | onInterval (dec : DecoderId) (duration : Nat) (level : Bool)
  /-- `on_reset(i)`. -/
  | onReset (dec : DecoderId)
  | writerEnable
  | writerDisable
  /-- `fatal(code, info)`; `info` is the 3-bit code of `overflow` at the time (60_exceptions R180). -/
  | fatal (code : BitVec 8) (info : BitVec 3)
  deriving DecidableEq, Repr

/-- `T[0..4]`, the symbol timing table, under the index names of 30_encoding R88. `none` is "unwritten", which the spec
gives as the reset value and represents as the absence of a value (10_state R50). -/
structure TimingTable where
  /-- `T[0]` = `T[ZERO+MARK]`. -/
  zeroMark : Option Nat
  /-- `T[1]` = `T[ZERO+SPACE]`. -/
  zeroSpace : Option Nat
  /-- `T[2]` = `T[ONE+MARK]`. -/
  oneMark : Option Nat
  /-- `T[3]` = `T[ONE+SPACE]`. -/
  oneSpace : Option Nat
  /-- `T[4]` = `T[IDLE]`. -/
  idle : Option Nat
  deriving DecidableEq, Repr

/-- Unit ENC: the Channel Context (10_state R21 to R26), the sequencer registers (R27, R35) and `sink_log` (R48). -/
structure Enc where
  times : TimingTable
  syncCount : Option (BitVec 8)
  bitsPerSymbol : Option (BitVec 4)
  bitOrder : Option BitOrder
  parityMode : Option ParityMode
  sinkParam : Option (BitVec 32)
  phase : EncPhase
  syncLeft : BitVec 8
  base : BitVec 32
  len : BitVec 24
  byteIdx : BitVec 24
  byte : Byte
  bitCnt : BitVec 4
  par : Bool
  sinkLog : List SinkCall
  deriving DecidableEq, Repr

/-- A Channel Context with every configuration register written: what ENCODE works from (10_state R50). -/
structure EncConfig where
  zeroMark : Nat
  zeroSpace : Nat
  oneMark : Nat
  oneSpace : Nat
  idle : Nat
  sync : BitVec 8
  width : BitVec 4
  order : BitOrder
  parity : ParityMode
  param : BitVec 32
  deriving DecidableEq, Repr

/-- Unit CAP: the Capture State and its hidden state (10_state R28 to R33, R36 to R48). -/
structure Cap where
  overflow : Overflow
  lastEdgeTime : Option Nat
  thisInterval : Option Nat
  thisLevel : Option Bool
  pulseCount : BitVec 8
  enableDelay : BitVec 16
  decoders : List DecoderId
  started : Bool
  now : Nat
  capTime : Option Nat
  capLevel : Option Bool
  capFlag : Bool
  capIe : Bool
  cmp : Option Nat
  cmpArmed : Bool
  cmpFlag : Bool
  ivalPending : Bool
  reset1Pending : Bool
  reset2Timer : Option (BitVec 16)
  wenTimer : Option (BitVec 16)
  fatalSeen : Bool
  capLog : List CapCall
  /-- The model's own: the number of INITs so far, read only by the free values (log 4). -/
  epoch : Nat
  deriving DecidableEq, Repr

/-- The contents of BUF: (address, byte) pairs, addresses strictly rising and below `2^32`, no pair listing the byte an
unlisted address reads as. -/
abbrev Memory := List Host.Cell

/-- What the outside presents to the block, one item a step (10_state R52, log 7). -/
inductive Input where
  /-- An operation word on the `op` port. -/
  | op (w : OpWord)
  /-- A turn of the encoder sequencer, the sink being ready (41_encoder R120, log 9). -/
  | encStep
  /-- The caller writes a byte of its buffer (20_memory R61, R73). -/
  | bufWrite (a : Addr) (v : Byte)
  deriving DecidableEq, Repr

/-- The whole machine: the two units, which share nothing (10_state R20), and beside them the parameters (constant,
log 1), the caller's BUF (log 5) and the inputs still to come (log 7). -/
structure State where
  params : Params
  buf : Memory
  inputs : List Input
  enc : Enc
  cap : Cap
  deriving DecidableEq, Repr

/-- Why the machine stops with a fault. -/
inductive Fault where
  /-- Raised by ENC_STEP alone, when the sequencer's next buffer byte lies at or above `2^AW`, an address that does not
  exist (20_memory R61). ENCODE refuses such a buffer (R62), so no run reaches it. Safe (log 15). -/
  | noSuchAddress
  deriving DecidableEq, Repr

/-- Why an operation presented to the block has no transition (00_scope R10). Every one of them is safe: the spec gives
the operation no effect there (log 8). -/
inductive Refusal where
  /-- An operation that has no meaning in this model yet: raised by no arm of `exec`. Safe. -/
  | notModelled (mnemonic : String)
  /-- The word spells no operation; raised by `step` (30_encoding R84). Safe. -/
  | undecodable (e : DecodeError)
  /-- The operation's enabling condition is false (R10); raised by EDGE_ISR, TIMEOUT_ISR, the four RUN operations and
  ENC_STEP. Safe. -/
  | notEnabled
  /-- DEC_REGISTER after a reader request (40_config R101). Safe. -/
  | decoderListClosed
  /-- DEC_REGISTER with `NDEC_MAX` entries registered (40_config R101). Safe. -/
  | decoderListFull
  /-- TT_SETUP, CFG_FORMAT, CFG_SINK or ENCODE while an encode is in flight (40_config R105). Safe. -/
  | encodeInFlight
  /-- TT_SETUP whose code array passes the last BUF address (20_memory R63). Safe. -/
  | codesOutOfRange
  /-- CFG_FORMAT with a reserved parity code (30_encoding R86, 40_config R103). Safe. -/
  | reservedParity
  /-- ENCODE (or ENC_STEP, in a state no run reaches) with a configuration register unwritten (41_encoder R119). Safe. -/
  | unconfigured
  /-- ENCODE (or ENC_STEP, in a state no run reaches) with `bits_per_symbol` 0 or above 8 (41_encoder R119). Safe. -/
  | badWidth
  /-- ENCODE whose buffer passes the last BUF address (20_memory R62). Safe. -/
  | bufferOutOfRange
  deriving DecidableEq, Repr

/-- Unit ENC after INIT (70_reset_and_hazards R201). The sequencer registers other than `enc_phase` are unspecified
there; zero is a DESIGN CHOICE (log 10). -/
def Enc.reset : Enc where
  times := ⟨none, none, none, none, none⟩
  syncCount := none
  bitsPerSymbol := none
  bitOrder := none
  parityMode := none
  sinkParam := none
  phase := .idle
  syncLeft := 0
  base := 0
  len := 0
  byteIdx := 0
  byte := 0
  bitCnt := 0
  par := false
  sinkLog := []

/-- Unit CAP after INIT (70_reset_and_hazards R202), with the number of INITs before. -/
def Cap.reset (p : Params) (epoch : Nat) : Cap where
  overflow := .first
  lastEdgeTime := none
  thisInterval := none
  thisLevel := none
  pulseCount := 0
  enableDelay := p.enableDelayDefault
  decoders := []
  started := false
  now := 0
  capTime := none
  capLevel := none
  capFlag := false
  capIe := false
  cmp := none
  cmpArmed := false
  cmpFlag := false
  ivalPending := false
  reset1Pending := false
  reset2Timer := none
  wenTimer := none
  fatalSeen := false
  capLog := []
  epoch := epoch

/-- The machine right after reset, at the spec's default parameters (R5), with nothing listed in BUF and nothing
presented on the `op` port. -/
def State.reset : State where
  params := {}
  buf := []
  inputs := []
  enc := Enc.reset
  cap := Cap.reset {} 0

end Sys2Proof.Machine
end

