-- ==== Sys2Proof/Machine/Operands.lean ====
section
/-! DEFINITION. Every operand form: the enumerated operand codes (spec/30_encoding.md R85 to R91), the rate conversion
(spec/00_scope.md R5), the BUF ranges of TT_SETUP and ENCODE (spec/20_memory.md R62, R63), bit selection and the timing
table index (spec/41_encoder.md R111, R112), and what a register read gives. -/

namespace Sys2Proof.Machine

/-- The 1-bit code of `bit_order` (30_encoding R85). -/
def bitOrderOfCode (c : BitVec 1) : BitOrder :=
  if c = 0 then .msbFirst else .lsbFirst

/-- The 3-bit code of `parity_mode`; codes 5 to 7 are reserved (30_encoding R86). -/
def parityOfCode (c : BitVec 3) : Option ParityMode :=
  match c.toNat with
  | 0 => some .none
  | 1 => some .mark
  | 2 => some .space
  | 3 => some .odd
  | 4 => some .even
  | _ => none

/-- The 3-bit code of `overflow`, the `info` of the fatal hook (30_encoding R87). -/
def overflowCode : Overflow → BitVec 3
  | .first => 0
  | .armed => 1
  | .captured => 2
  | .reset => 3
  | .resetQuiet => 4
  | .resetDisable => 5
  | .resetDisableDeferred => 6

/-- The 3-bit code of `enc_phase` (30_encoding R91). -/
def encPhaseCode : EncPhase → BitVec 3
  | .idle => 0
  | .sync => 1
  | .start => 2
  | .data => 3
  | .parity => 4
  | .endMark => 5
  | .idleMark => 6

/-- `FATAL_PROTOCOL` (30_encoding R90). -/
def fatalProtocol : BitVec 8 := 1

/-- `FATAL_NOMEM`, which no operation of this block raises (30_encoding R90, 60_exceptions R182). -/
def fatalNomem : BitVec 8 := 2

/-- The reset states of 00_scope R14. -/
def isResetState : Overflow → Bool
  | .reset | .resetQuiet | .resetDisable | .resetDisableDeferred => true
  | .first | .armed | .captured => false

/-- The entry of a rate table for a code, the code itself where it has none. -/
def rateLookup (table : List (BitVec 8 × Nat)) (code : BitVec 8) : Nat :=
  match table with
  | [] => code.toNat
  | (c, d) :: rest => if c = code then d else rateLookup rest code

/-- `rate`, a total function from rate codes to `DW`-bit durations (00_scope R5, 93 U1; log 13). -/
def rate (p : Params) (code : BitVec 8) : Nat := rateLookup p.rate code % 2 ^ p.dw

/-- TT_SETUP's five code bytes exist: `codes + 4 < 2^AW` (20_memory R63). -/
def codesInRange (codes : Addr) : Bool := decide (codes.toNat + 4 < 2 ^ 32)

/-- ENCODE's `len` buffer bytes exist: `len = 0` or `base + len - 1 < 2^AW` (20_memory R62). -/
def bufferInRange (base : Addr) (len : BitVec 24) : Bool :=
  decide (len.toNat = 0 ∨ base.toNat + len.toNat - 1 < 2 ^ 32)

/-- A legal bit width, `1 .. 8` (10_state R23, 41_encoder R119). -/
def widthLegal (w : BitVec 4) : Bool := decide (1 ≤ w.toNat ∧ w.toNat ≤ 8)

/-- The bit carried by the `n`-th data pulse of a byte, `n` from 0 (41_encoder R112). -/
def bitIndex (order : BitOrder) (w n : Nat) : Nat :=
  match order with
  | .msbFirst => w - 1 - n
  | .lsbFirst => n

/-- The value of the `n`-th data pulse of byte `v` (41_encoder R112). -/
def dataBit (k : EncConfig) (v : Byte) (n : Nat) : Bool := v.getLsbD (bitIndex k.order k.width.toNat n)

/-- `Pulse(b)`: `emit(sink_param, T[2b], T[2b + 1])` (41_encoder R111). -/
def pulse (k : EncConfig) : Bool → SinkCall
  | false => ⟨k.param, k.zeroMark, k.zeroSpace⟩
  | true => ⟨k.param, k.oneMark, k.oneSpace⟩

/-- The idle marker: `emit(sink_param, 0, T[4])` (41_encoder R117). -/
def idleMarker (k : EncConfig) : SinkCall := ⟨k.param, 0, k.idle⟩

/-- The Channel Context as ENCODE reads it: `none` while any configuration register is unwritten (10_state R50). -/
def Enc.config (e : Enc) : Option EncConfig := do
  let zeroMark ← e.times.zeroMark
  let zeroSpace ← e.times.zeroSpace
  let oneMark ← e.times.oneMark
  let oneSpace ← e.times.oneSpace
  let idle ← e.times.idle
  let sync ← e.syncCount
  let width ← e.bitsPerSymbol
  let order ← e.bitOrder
  let parity ← e.parityMode
  let param ← e.sinkParam
  return { zeroMark, zeroSpace, oneMark, oneSpace, idle, sync, width, order, parity, param }

/-! Reads of the CAP registers. A register that nothing has written since INIT reads as a free value; no run comes to
that (10_state R50, log 3). -/

/-- What `last_edge_time` reads as. -/
def readLastEdgeTime (p : Params) (c : Cap) : Nat :=
  c.lastEdgeTime.getD (Config.unwrittenLastEdgeTime c.epoch % 2 ^ p.tw)

/-- What `this_interval` reads as. -/
def readThisInterval (p : Params) (c : Cap) : Nat :=
  c.thisInterval.getD (Config.unwrittenThisInterval c.epoch % 2 ^ p.tw)

/-- What `this_level` reads as. -/
def readThisLevel (c : Cap) : Bool := c.thisLevel.getD (Config.unwrittenThisLevel c.epoch)

/-- What `cap_time` reads as. -/
def readCapTime (p : Params) (c : Cap) : Nat :=
  c.capTime.getD (Config.unwrittenCapTime c.epoch % 2 ^ p.tw)

/-- What `cap_level` reads as. -/
def readCapLevel (c : Cap) : Bool := c.capLevel.getD (Config.unwrittenCapLevel c.epoch)

/-- What `cmp` reads as. -/
def readCmp (p : Params) (c : Cap) : Nat := c.cmp.getD (Config.unwrittenCmp c.epoch % 2 ^ p.tw)

/-! Timer arithmetic modulo `2^TW` (70_reset_and_hazards R222). -/

/-- `(t + n) mod 2^TW`. -/
def ticksAdd (p : Params) (t n : Nat) : Nat := (t + n) % 2 ^ p.tw

/-- `(t - u) mod 2^TW` (42_capture_events R135). -/
def ticksSub (p : Params) (t u : Nat) : Nat := (t + (2 ^ p.tw - u % 2 ^ p.tw)) % 2 ^ p.tw

end Sys2Proof.Machine
end

