-- ==== Sys2Proof/Machine/Flags.lean ====
section
/-! DEFINITION. Every flag computation: the running parity and the parity pulse (spec/41_encoder.md R113, R114), the
enabling conditions of the handlers and tasks (spec/60_exceptions.md R184, R185; spec/44_deferred_tasks.md R160), the
compare match (spec/42_capture_events.md R131), the saturating edge count and its threshold tests (R134). -/

namespace Sys2Proof.Machine

/-- The running parity after the given data bits: exclusive or from 0 (41_encoder R113). -/
def runningParity (bits : List Bool) : Bool := bits.foldl Bool.xor false

/-- The parity pulse after a byte whose running parity is `par`; none in mode none (41_encoder R114). -/
def parityPulse (mode : ParityMode) (par : Bool) : Option Bool :=
  match mode with
  | .none => none
  | .mark => some true
  | .space => some false
  | .odd => some (par ^^ true)
  | .even => some par

/-- EDGE_ISR can be taken: `cap_flag = 1 and cap_ie = 1` (42_capture_events R136, 60_exceptions R184). -/
def edgeEnabled (c : Cap) : Bool := c.capFlag && c.capIe

/-- TIMEOUT_ISR can be taken: `cmp_flag = 1` (42_capture_events R140, 60_exceptions R185). -/
def timeoutEnabled (c : Cap) : Bool := c.cmpFlag

/-- RUN_RESET2 can run: `reset2_timer = Some 0` (44_deferred_tasks R164). -/
def reset2Enabled (c : Cap) : Bool := decide (c.reset2Timer = some 0)

/-- RUN_WEN can run: `wen_timer = Some 0` (44_deferred_tasks R165). -/
def wenEnabled (c : Cap) : Bool := decide (c.wenTimer = some 0)

/-- Overrun: the interval task has not yet run (42_capture_events R138). -/
def overrun (c : Cap) : Bool := c.ivalPending

/-- `pulse_count` plus one, saturating at `2^PCW - 1` (42_capture_events R134). -/
def countUp (n : BitVec 8) : BitVec 8 := if n.toNat < 255 then n + 1 else n

/-- The step from `n` counts up and lands exactly on `PULSE_THRESHOLD` (42_capture_events R134). -/
def hitsThreshold (p : Params) (n : BitVec 8) : Bool := decide (n.toNat < 255 ∧ n + 1 = p.pulseThreshold)

/-- `pulse_count >= PULSE_THRESHOLD` (44_deferred_tasks R162). -/
def thresholdReached (p : Params) (c : Cap) : Bool := decide (p.pulseThreshold.toNat ≤ c.pulseCount.toNat)

/-- How many ticks from `now` until the timer next equals `v`: a full turn if it does now. -/
def ticksUntil (p : Params) (now v : Nat) : Nat :=
  if ticksSub p v now = 0 then 2 ^ p.tw else ticksSub p v now

/-- Some one of the next `n` ticks brings the timer to the compare register while it is armed
(42_capture_events R131, in closed form: log 12). -/
def compareHit (p : Params) (n : Nat) (c : Cap) : Bool :=
  c.cmpArmed && decide (readCmp p c < 2 ^ p.tw ∧ ticksUntil p c.now (readCmp p c) ≤ n)

end Sys2Proof.Machine
end

