-- ==== Sys2Proof/Machine/Ops.lean ====
section
/-! DEFINITION. The shared operations: BUF reads and the caller's writes (spec/20_memory.md), the fatal hook, which is
the block's one exception (spec/60_exceptions.md R180), the helper routines of the capture handlers
(spec/42_capture_events.md R132 to R134), the second reset phase (spec/44_deferred_tasks.md R163), the decoder calls
(spec/44_deferred_tasks.md R161, R162) and the passage of time (spec/42_capture_events.md R131). -/

namespace Sys2Proof.Machine

/-! ## BUF -/

/-- The byte an unlisted BUF address reads as. The spec leaves the contents of BUF to its caller (10_state R49);
DESIGN CHOICE, unsafe (log 5). -/
def unlistedByte : Byte := 0

/-- `MemRead(addr, 1)` (20_memory R61). -/
def Memory.read : Memory → Nat → Byte
  | [], _ => unlistedByte
  | (b, w) :: m, a => if a = b then w else Memory.read m a

/-- The caller writes one byte; the canonical form is kept. The block itself never writes BUF (20_memory R61). -/
def Memory.write : Memory → Nat → Byte → Memory
  | [], a, v => if v = unlistedByte then [] else [(a, v)]
  | (b, w) :: m, a, v =>
    if a < b then (if v = unlistedByte then (b, w) :: m else (a, v) :: (b, w) :: m)
    else if a = b then (if v = unlistedByte then m else (a, v) :: m)
    else (b, w) :: Memory.write m a v

/-- The canonical form above a bound: addresses strictly rising from `lo`, below `2^AW`, and no entry that an unlisted
address would read as. -/
def Memory.wfFrom : Nat → Memory → Bool
  | _, [] => true
  | lo, (b, w) :: m => decide (lo ≤ b) && decide (b < 2 ^ 32) && decide (w ≠ unlistedByte) && Memory.wfFrom (b + 1) m

/-- The canonical form of BUF. -/
def Memory.wf (m : Memory) : Bool := Memory.wfFrom 0 m

/-- The `len` bytes from `base`, in ascending address order (20_memory R62, R64). -/
def Memory.bytes (m : Memory) (base len : Nat) : List Byte :=
  (List.range len).map fun i => Memory.read m (base + i)

/-! ## The fatal hook -/

/-- `raise Fatal(code)`: the one exception-like output. It logs `fatal(code, overflow)`, sets the sticky `fatal_seen`,
saves nothing, changes no mode and transfers control nowhere; the rule goes on (60_exceptions R180). -/
def raiseFatal (code : BitVec 8) (c : Cap) : Cap :=
  { c with capLog := c.capLog ++ [.fatal code (overflowCode c.overflow)], fatalSeen := true }

/-! ## Helper routines of the handlers -/

/-- `arm_cmp(T)` (42_capture_events R132). -/
def armCmp (p : Params) (t : Nat) (c : Cap) : Cap :=
  { c with cmp := some (ticksAdd p c.now t), cmpArmed := true, cmpFlag := false }

/-- `disarm_cmp()` (42_capture_events R132). -/
def disarmCmp (c : Cap) : Cap := { c with cmpArmed := false, cmpFlag := false }

/-- `enter_reset(s)` (42_capture_events R133). -/
def enterReset (o : Overflow) (c : Cap) : Cap :=
  { disarmCmp c with overflow := o, capIe := false, reset1Pending := true }

/-- `count_edge()` (42_capture_events R134). -/
def countEdge (p : Params) (c : Cap) : Cap :=
  { c with
    pulseCount := countUp c.pulseCount
    capLog := c.capLog ++ if hitsThreshold p c.pulseCount then [.writerDisable] else [] }

/-- `do_reset2()`, the second phase (44_deferred_tasks R163). -/
def doReset2 (c : Cap) : Cap :=
  match c.overflow with
  | .resetDisableDeferred => { c with reset2Timer := none, overflow := .resetDisable }
  | .first | .armed | .captured | .reset | .resetQuiet | .resetDisable =>
    { disarmCmp c with reset2Timer := none, capFlag := false, capIe := true, overflow := .first }

/-! ## Decoder calls -/

/-- `on_interval(d, l)` to every entry in registration order (44_deferred_tasks R161). -/
def dispatchInterval (d : Nat) (l : Bool) (c : Cap) : Cap :=
  { c with capLog := c.capLog ++ c.decoders.map fun dec => .onInterval dec d l }

/-- `on_reset()` to every entry in registration order (44_deferred_tasks R162). -/
def broadcastReset (c : Cap) : Cap := { c with capLog := c.capLog ++ c.decoders.map .onReset }

/-! ## Time -/

/-- One tick of a countdown timer: a positive one goes down by one, zero and `None` stay (42_capture_events R131). -/
def countdownOnce (t : Option (BitVec 16)) : Option (BitVec 16) :=
  t.map fun k => if k = 0 then k else k - 1

/-- `n` ticks of a countdown timer. -/
def countdown (n : Nat) (t : Option (BitVec 16)) : Option (BitVec 16) :=
  t.map fun k => BitVec.ofNat 16 (k.toNat - n)

/-- One device time unit: the body of TICK's loop (42_capture_events R131). -/
def tickOnce (p : Params) (c : Cap) : Cap :=
  { c with
    now := ticksAdd p c.now 1
    cmpFlag := c.cmpFlag || (c.cmpArmed && decide (ticksAdd p c.now 1 = readCmp p c))
    reset2Timer := countdownOnce c.reset2Timer
    wenTimer := countdownOnce c.wenTimer }

/-- `n` repetitions of the body, as the spec writes TICK (42_capture_events R131). -/
def tickLoop (p : Params) : Nat → Cap → Cap
  | 0, c => c
  | n + 1, c => tickLoop p n (tickOnce p c)

/-- `n` ticks at once, the form TICK runs, so that a long wait can be evaluated (log 12). -/
def tickBy (p : Params) (n : Nat) (c : Cap) : Cap :=
  match n with
  | 0 => c
  | m + 1 =>
    { c with
      now := ticksAdd p c.now (m + 1)
      cmpFlag := c.cmpFlag || compareHit p (m + 1) c
      reset2Timer := countdown (m + 1) c.reset2Timer
      wenTimer := countdown (m + 1) c.wenTimer }

end Sys2Proof.Machine
end

