-- ==== Sys2Proof/Machine/Capture.lean ====
section
/-! DEFINITION. The environment and the interrupt context of unit CAP: LINE_EDGE, TICK, EDGE_ISR, TIMEOUT_ISR
(spec/42_capture_events.md R130, R131, R136 to R141). -/

namespace Sys2Proof.Machine

/-- LINE_EDGE level: the capture unit latches the time and the level, whatever `cap_ie` and `overflow` are
(42_capture_events R130). -/
def execLineEdge (level : Bool) (s : State) : Host.Outcome State Fault Refusal :=
  .next { s with cap := { s.cap with capTime := some s.cap.now, capLevel := some level, capFlag := true } }

/-- TICK n: `n` device time units pass (42_capture_events R131). -/
def execTick (n : BitVec 32) (s : State) : Host.Outcome State Fault Refusal :=
  .next { s with cap := tickBy s.params n.toNat s.cap }

/-- What EDGE_ISR's two accepting arms share: count the edge, open the settle window, mask the capture event and move to
CAPTURED (42_capture_events R137, R138). -/
def openSettleWindow (p : Params) (c : Cap) : Cap :=
  { armCmp p p.tSettle (countEdge p c) with capIe := false, overflow := .captured }

/-- EDGE_ISR in FIRST: the first edge primes the pipeline (42_capture_events R137). -/
def edgeFirst (p : Params) (t : Nat) (c : Cap) : Cap :=
  openSettleWindow p { c with lastEdgeTime := some t }

/-- EDGE_ISR in ARMED: overrun, or an accepted edge and the submission of the interval task (42_capture_events R138). -/
def edgeArmed (p : Params) (t : Nat) (l : Bool) (c : Cap) : Cap :=
  if overrun c then enterReset .reset (countEdge p c)
  else openSettleWindow p { c with
    thisInterval := some (ticksSub p t (readLastEdgeTime p c))
    thisLevel := some l
    lastEdgeTime := some t
    ivalPending := true }

/-- The body of EDGE_ISR: acknowledge the capture, then the arm of `overflow` (42_capture_events R136 to R139). -/
def edgeBody (p : Params) (c : Cap) : Cap :=
  match c.overflow with
  | .first => edgeFirst p (readCapTime p c) { c with capFlag := false }
  | .armed => edgeArmed p (readCapTime p c) (readCapLevel c) { c with capFlag := false }
  | .captured | .reset | .resetQuiet | .resetDisable | .resetDisableDeferred =>
    raiseFatal fatalProtocol { c with capFlag := false }

/-- EDGE_ISR: the edge-capture event, enabled when `cap_flag = 1` and `cap_ie = 1` (42_capture_events R136). -/
def execEdgeIsr (s : State) : Host.Outcome State Fault Refusal :=
  if edgeEnabled s.cap then .next { s with cap := edgeBody s.params s.cap } else .refused .notEnabled

/-- The body of TIMEOUT_ISR: acknowledge the compare event, then the arm of `overflow` (42_capture_events R140, R141). -/
def timeoutBody (p : Params) (c : Cap) : Cap :=
  match c.overflow with
  | .captured =>
    if c.capFlag then enterReset .resetQuiet (disarmCmp c)
    else { armCmp p p.tIdle (disarmCmp c) with capIe := true, overflow := .armed }
  | .armed => enterReset .resetQuiet (disarmCmp c)
  | .first | .reset | .resetQuiet | .resetDisable | .resetDisableDeferred => disarmCmp c

/-- TIMEOUT_ISR: the timeout-compare event, enabled when `cmp_flag = 1` (42_capture_events R140). -/
def execTimeoutIsr (s : State) : Host.Outcome State Fault Refusal :=
  if timeoutEnabled s.cap then .next { s with cap := timeoutBody s.params s.cap } else .refused .notEnabled

end Sys2Proof.Machine
end

