-- ==== Sys2Proof/Machine/Configure.lean ====
section
/-! DEFINITION. The configuration operations of unit ENC: TT_SETUP, CFG_FORMAT, CFG_SINK (spec/40_config.md R102 to
R105). -/

namespace Sys2Proof.Machine

/-- The five table entries converted from the code bytes at `codes .. codes + 4` (40_config R102, 20_memory R63). -/
def loadTable (p : Params) (m : Memory) (codes : Nat) : TimingTable where
  zeroMark := some (rate p (Memory.read m codes))
  zeroSpace := some (rate p (Memory.read m (codes + 1)))
  oneMark := some (rate p (Memory.read m (codes + 2)))
  oneSpace := some (rate p (Memory.read m (codes + 3)))
  idle := some (rate p (Memory.read m (codes + 4)))

/-- An encode is in flight: `enc_phase != E_IDLE` (40_config R105). -/
def encodeBusy (e : Enc) : Bool := decide (e.phase ≠ .idle)

/-- TT_SETUP sync, @codes (40_config R102). -/
def execTtSetup (sync : BitVec 8) (codes : Addr) (s : State) : Host.Outcome State Fault Refusal :=
  if encodeBusy s.enc then .refused .encodeInFlight
  else if codesInRange codes then
    .next { s with enc := { s.enc with times := loadTable s.params s.buf codes.toNat, syncCount := some sync } }
  else .refused .codesOutOfRange

/-- CFG_FORMAT w, order, pmode: the width is written unchecked, a reserved parity code is refused (40_config R103). -/
def execCfgFormat (w : BitVec 4) (order : BitVec 1) (pmode : BitVec 3) (s : State) :
    Host.Outcome State Fault Refusal :=
  if encodeBusy s.enc then .refused .encodeInFlight
  else
    match parityOfCode pmode with
    | none => .refused .reservedParity
    | some mode =>
      .next { s with enc := { s.enc with
        bitsPerSymbol := some w, bitOrder := some (bitOrderOfCode order), parityMode := some mode } }

/-- CFG_SINK param (40_config R104). -/
def execCfgSink (param : BitVec 32) (s : State) : Host.Outcome State Fault Refusal :=
  if encodeBusy s.enc then .refused .encodeInFlight
  else .next { s with enc := { s.enc with sinkParam := some param } }

end Sys2Proof.Machine
end

