-- ==== Sys2Proof/Machine/Encoder.lean ====
section
/-! DEFINITION. The Bit Encoder: ENCODE as one atomic step (spec/41_encoder.md R110 to R119) and as a sequencer with one
internal step ENC_STEP per sink call (R120). Which of the two a machine has is the parameter `sequenced` (log 9). -/

namespace Sys2Proof.Machine

/-- The data bits of a byte, in the order they are sent (41_encoder R112). -/
def dataBits (k : EncConfig) (v : Byte) : List Bool := (List.range k.width.toNat).map (dataBit k v)

/-- The running parity of a whole byte (41_encoder R113). -/
def byteParity (k : EncConfig) (v : Byte) : Bool := runningParity (dataBits k v)

/-- The pulses of a byte: its data bits, then the parity pulse of its mode (41_encoder R110, R114). -/
def byteBits (k : EncConfig) (v : Byte) : List Bool :=
  dataBits k v ++ (parityPulse k.parity (byteParity k v)).toList

/-- The pulses of one ENCODE up to the end marker: `sync_count` zeros, the start one, the bytes, the end zero
(41_encoder R110, R115, R116). -/
def encodeBits (k : EncConfig) (bytes : List Byte) : List Bool :=
  List.replicate k.sync.toNat false ++ [true] ++ bytes.flatMap (byteBits k) ++ [false]

/-- The sink calls of one ENCODE: its pulses, then the idle marker (41_encoder R110, R117). -/
def encodeCalls (k : EncConfig) (bytes : List Byte) : List SinkCall :=
  (encodeBits k bytes).map (pulse k) ++ [idleMarker k]

/-- The refusals of ENCODE, all checked before the first sink call (41_encoder R119); else the configuration. -/
def encodeCheck (base : Addr) (len : BitVec 24) (e : Enc) : Except Refusal EncConfig :=
  if encodeBusy e then .error .encodeInFlight
  else
    match e.config with
    | none => .error .unconfigured
    | some k =>
      if widthLegal k.width then
        if bufferInRange base len then .ok k else .error .bufferOutOfRange
      else .error .badWidth

/-- The whole encode at once: the calls are appended to `sink_log`, and the sequencer registers are left as the stepwise
form leaves them (41_encoder R110, R120; log 11). -/
def encodeAtOnce (k : EncConfig) (m : Memory) (base : Addr) (len : BitVec 24) (e : Enc) : Enc :=
  let bytes := Memory.bytes m base.toNat len.toNat
  { e with
    phase := .idle
    syncLeft := 0
    base := base
    len := len
    byteIdx := len
    byte := bytes.getLast?.getD e.byte
    bitCnt := if bytes.isEmpty then e.bitCnt else k.width
    par := (bytes.getLast?.map (byteParity k)).getD e.par
    sinkLog := e.sinkLog ++ encodeCalls k bytes }

/-- The start action of the stepwise form (41_encoder R120). -/
def encodeStart (k : EncConfig) (base : Addr) (len : BitVec 24) (e : Enc) : Enc :=
  { e with
    base := base
    len := len
    syncLeft := k.sync
    byteIdx := 0
    phase := if k.sync = 0 then .start else .sync }

/-- ENCODE @base, len (41_encoder R110; R120 where the machine is sequenced). -/
def execEncode (base : Addr) (len : BitVec 24) (s : State) : Host.Outcome State Fault Refusal :=
  match encodeCheck base len s.enc with
  | .error r => .refused r
  | .ok k =>
    if s.params.sequenced then .next { s with enc := encodeStart k base len s.enc }
    else .next { s with enc := encodeAtOnce k s.buf base len s.enc }

/-- One sink call of the sequencer. -/
def emitCall (call : SinkCall) (e : Enc) : Enc := { e with sinkLog := e.sinkLog ++ [call] }

/-- `begin_byte()`: the one read of the current byte (41_encoder R120). An address that does not exist faults; ENCODE
has refused such a buffer (20_memory R61, R62; log 15). -/
def beginByte (m : Memory) (e : Enc) : Except Fault Enc :=
  let a := e.base.toNat + e.byteIdx.toNat
  if a < 2 ^ 32 then .ok { e with byte := Memory.read m a, bitCnt := 0, par := false, phase := .data }
  else .error .noSuchAddress

/-- `next_byte()` (41_encoder R120). -/
def nextByte (m : Memory) (e : Enc) : Except Fault Enc :=
  let e' := { e with byteIdx := e.byteIdx + 1 }
  if e'.byteIdx = e'.len then .ok { e' with phase := .endMark } else beginByte m e'

/-- ENC_STEP from a phase other than E_IDLE: exactly one `emit` (41_encoder R120). -/
def sequence (k : EncConfig) (m : Memory) (e : Enc) : Except Fault Enc :=
  match e.phase with
  | .idle => .ok e
  | .sync =>
    let e' := emitCall (pulse k false) { e with syncLeft := e.syncLeft - 1 }
    .ok (if e'.syncLeft = 0 then { e' with phase := .start } else e')
  | .start =>
    let e' := emitCall (pulse k true) e
    if e.len = 0 then .ok { e' with phase := .endMark } else beginByte m { e' with byteIdx := 0 }
  | .data =>
    let bit := dataBit k e.byte e.bitCnt.toNat
    let e' := emitCall (pulse k bit) { e with par := e.par ^^ bit, bitCnt := e.bitCnt + 1 }
    if e'.bitCnt = k.width then
      if k.parity = .none then nextByte m e' else .ok { e' with phase := .parity }
    else .ok e'
  | .parity =>
    let calls := (parityPulse k.parity e.par).toList.map (pulse k)
    nextByte m { e with sinkLog := e.sinkLog ++ calls }
  | .endMark => .ok { emitCall (pulse k false) e with phase := .idleMark }
  | .idleMark => .ok { emitCall (idleMarker k) e with phase := .idle }

/-- ENC_STEP, the internal step of the stepwise form: enabled when `enc_phase != E_IDLE` (41_encoder R120). The
configuration is complete and its width legal whenever an encode is in flight (R119, R105); where it is not, in a state
no run reaches, the step is refused as ENCODE is (log 15). -/
def encStep (s : State) : Host.Outcome State Fault Refusal :=
  if s.enc.phase = .idle then .refused .notEnabled
  else
    match s.enc.config with
    | none => .refused .unconfigured
    | some k =>
      if widthLegal k.width then
        match sequence k s.buf s.enc with
        | .ok e => .next { s with enc := e }
        | .error f => .fault f
      else .refused .badWidth

end Sys2Proof.Machine
end

