-- ==== Sys2Proof/Machine/Lifecycle.lean ====
section
/-! DEFINITION. The lifecycle operations INIT and DEC_REGISTER (spec/40_config.md R100, R101). -/

namespace Sys2Proof.Machine

/-- INIT: every piece of the block's state to its reset value, both logs cleared, no output call (40_config R100,
70_reset_and_hazards R203). BUF is the caller's and the parameters are fixed (10_state R49): both stay, and so do the
inputs still to come (log 19). -/
def execInit (s : State) : Host.Outcome State Fault Refusal :=
  .next { s with enc := Enc.reset, cap := Cap.reset s.params (s.cap.epoch + 1) }

/-- DEC_REGISTER id: append one entry; refused once `started = 1` and when the list is full (40_config R101). -/
def execDecRegister (id : DecoderId) (s : State) : Host.Outcome State Fault Refusal :=
  if s.cap.started then .refused .decoderListClosed
  else if s.params.ndecMax ≤ s.cap.decoders.length then .refused .decoderListFull
  else .next { s with cap := { s.cap with decoders := s.cap.decoders ++ [id] } }

end Sys2Proof.Machine
end

