-- ==== Sys2Proof/Machine/Requests.lean ====
section
/-! DEFINITION. The owner's requests to unit CAP: RD_DISABLE, RD_ENABLE, FRAME_QUEUED (spec/43_requests.md R150 to
R154). -/

namespace Sys2Proof.Machine

/-- The case analysis of RD_DISABLE on `overflow`, one atomic read-modify-write (43_requests R150, R153). -/
def disableBody (c : Cap) : Cap :=
  match c.overflow with
  | .first | .armed | .captured => enterReset .resetDisableDeferred c
  | .resetQuiet => { c with overflow := .resetDisableDeferred, reset1Pending := true }
  | .reset => { c with overflow := .resetDisableDeferred }
  | .resetDisableDeferred | .resetDisable => c

/-- RD_DISABLE: suspend capture; it closes the decoder list (43_requests R150, R154). -/
def execRdDisable (s : State) : Host.Outcome State Fault Refusal :=
  .next { s with cap := disableBody { s.cap with started := true } }

/-- The case analysis of RD_ENABLE on `overflow` (43_requests R151). -/
def enableBody (c : Cap) : Cap :=
  match c.overflow with
  | .resetDisableDeferred => { c with overflow := .reset }
  | .first | .armed | .captured | .reset | .resetQuiet | .resetDisable => doReset2 c

/-- RD_ENABLE: start or resume capture, or cancel a deferred disable; it closes the decoder list (43_requests R151,
R154). -/
def execRdEnable (s : State) : Host.Outcome State Fault Refusal :=
  .next { s with cap := enableBody { s.cap with started := true } }

/-- FRAME_QUEUED: `enable_delay <- max(enable_delay, ENABLE_DELAY_BUSY)` (43_requests R152). -/
def execFrameQueued (s : State) : Host.Outcome State Fault Refusal :=
  .next { s with cap := { s.cap with enableDelay :=
    if s.cap.enableDelay.toNat < s.params.enableDelayBusy.toNat then s.params.enableDelayBusy
    else s.cap.enableDelay } }

end Sys2Proof.Machine
end

