-- ==== Sys2Proof/Machine/Tasks.lean ====
section
/-! DEFINITION. The deferred tasks: RUN_IVAL, RUN_RESET1, RUN_RESET2, RUN_WEN (spec/44_deferred_tasks.md R160 to
R165). -/

namespace Sys2Proof.Machine

/-- The body of RUN_IVAL: deliver the interval, or discard it in a reset state (44_deferred_tasks R161). -/
def ivalBody (p : Params) (c : Cap) : Cap :=
  if isResetState c.overflow then { c with ivalPending := false }
  else dispatchInterval (readThisInterval p c) (readThisLevel c) { c with ivalPending := false }

/-- RUN_IVAL, enabled when `ival_pending = 1` (44_deferred_tasks R161). -/
def execRunIval (s : State) : Host.Outcome State Fault Refusal :=
  if s.cap.ivalPending then .next { s with cap := ivalBody s.params s.cap } else .refused .notEnabled

/-- What the first phase does with `overflow` after its broadcast: schedule the second phase, finalise a disable, or
proceed to the second phase at once (44_deferred_tasks R162). -/
def reset1Phase (p : Params) (c : Cap) : Cap :=
  match c.overflow with
  | .reset => { c with reset2Timer := some p.tResetQuiet }
  | .resetDisableDeferred => { c with overflow := .resetDisable }
  | .first | .armed | .captured | .resetQuiet | .resetDisable => doReset2 c

/-- The end of the first phase: the transmitter re-enable is scheduled with the delay as it stands, then both counters
are cleared (44_deferred_tasks R162). -/
def reset1Counters (p : Params) (c : Cap) : Cap :=
  { c with
    wenTimer := if thresholdReached p c then some c.enableDelay else c.wenTimer
    pulseCount := 0
    enableDelay := p.enableDelayDefault }

/-- The body of RUN_RESET1 (44_deferred_tasks R162). -/
def reset1Body (p : Params) (c : Cap) : Cap :=
  reset1Counters p (reset1Phase p (broadcastReset { c with reset1Pending := false, ivalPending := false }))

/-- RUN_RESET1, the first-phase deferred reset work, enabled when `reset1_pending = 1` (44_deferred_tasks R162). -/
def execRunReset1 (s : State) : Host.Outcome State Fault Refusal :=
  if s.cap.reset1Pending then .next { s with cap := reset1Body s.params s.cap } else .refused .notEnabled

/-- RUN_RESET2, the scheduled second phase, enabled when `reset2_timer = Some 0` (44_deferred_tasks R164). -/
def execRunReset2 (s : State) : Host.Outcome State Fault Refusal :=
  if reset2Enabled s.cap then .next { s with cap := doReset2 s.cap } else .refused .notEnabled

/-- RUN_WEN, the scheduled transmitter re-enable, enabled when `wen_timer = Some 0` (44_deferred_tasks R165). -/
def execRunWen (s : State) : Host.Outcome State Fault Refusal :=
  if wenEnabled s.cap then
    .next { s with cap := { s.cap with wenTimer := none, capLog := s.cap.capLog ++ [.writerEnable] } }
  else .refused .notEnabled

end Sys2Proof.Machine
end

