-- ==== Sys2Proof/Machine/Dispatch.lean ====
section
/-! DEFINITION. One arm per operation: each calls its meaning. -/

namespace Sys2Proof.Machine

def exec (i : Instr) (s : State) : Host.Outcome State Fault Refusal :=
  match i with
  | .init => Sys2Proof.Machine.execInit s
  | .decRegister id => Sys2Proof.Machine.execDecRegister id s
  | .ttSetup sync codes => Sys2Proof.Machine.execTtSetup sync codes s
  | .cfgFormat w order pmode => Sys2Proof.Machine.execCfgFormat w order pmode s
  | .cfgSink param => Sys2Proof.Machine.execCfgSink param s
  | .encode base len => Sys2Proof.Machine.execEncode base len s
  | .lineEdge level => Sys2Proof.Machine.execLineEdge level s
  | .tick n => Sys2Proof.Machine.execTick n s
  | .edgeIsr => Sys2Proof.Machine.execEdgeIsr s
  | .timeoutIsr => Sys2Proof.Machine.execTimeoutIsr s
  | .rdDisable => Sys2Proof.Machine.execRdDisable s
  | .rdEnable => Sys2Proof.Machine.execRdEnable s
  | .frameQueued => Sys2Proof.Machine.execFrameQueued s
  | .runIval => Sys2Proof.Machine.execRunIval s
  | .runReset1 => Sys2Proof.Machine.execRunReset1 s
  | .runReset2 => Sys2Proof.Machine.execRunReset2 s
  | .runWen => Sys2Proof.Machine.execRunWen s

end Sys2Proof.Machine
end

