-- ==== Sys2Proof/Machine/Step.lean ====
section
/-! DEFINITION. One step of the machine: the next input is presented and taken (spec/00_scope.md R10, R11;
spec/20_memory.md R69). -/

namespace Sys2Proof.Machine

/-- One step. The block has no program counter and fetches nothing (10_state R34): operations are presented on the `op`
port by its agents, here in the order `inputs` lists them. With none presented the block waits (70_reset_and_hazards
R200). A word that spells no operation is refused (30_encoding R84). See log 7. -/
def step (s : State) : Host.Outcome State Fault Refusal :=
  match s.inputs with
  | [] => .next s
  | .op w :: rest =>
    match decode w with
    | .ok i => exec i { s with inputs := rest }
    | .error e => .refused (.undecodable e)
  | .encStep :: rest => encStep { s with inputs := rest }
  | .bufWrite a v :: rest => .next { s with inputs := rest, buf := Memory.write s.buf a.toNat v }

/-- `s` with the operation word `w` presented next: the very next step takes it. -/
def State.withFetchWord (s : State) (nbits w : Nat) : State :=
  { s with inputs := .op (tableWord nbits w) :: s.inputs }

end Sys2Proof.Machine
end

