-- ==== Sys2Proof/Safety.lean ====
section
/-! DEFINITION. What counts as a safe state: the invariants of the capture pipeline (spec/70_reset_and_hazards.md R213),
the bounds the register widths put on values, and what an encode in flight needs. -/

namespace Sys2Proof.Machine

/-- An optional value, where there is one, is below a bound. -/
abbrev BoundedBy (n : Nat) (v : Option Nat) : Prop := ∀ x, v = some x → x < n

/-- The invariants of unit CAP. The letters are those of 70_reset_and_hazards R213. -/
structure Cap.Inv (p : Params) (c : Cap) : Prop where
  /-- (a) -/
  captureArmed : c.capIe = true → c.overflow = .first ∨ c.overflow = .armed
  /-- (b) -/
  capturedWindow : c.overflow = .captured → c.cmpArmed = true
  /-- (c) -/
  armedWindow : c.overflow = .armed → c.cmpArmed = true ∧ c.capIe = true
  /-- (d) -/
  firstArmed : c.overflow = .first → c.started = true → c.capIe = true
  /-- (e) -/
  resetWorkPending : c.overflow = .reset ∨ c.overflow = .resetQuiet ∨ c.overflow = .resetDisableDeferred →
    c.reset1Pending = true ∨ c.reset2Timer ≠ none
  /-- (f) -/
  secondPhase : c.reset2Timer ≠ none →
    (c.overflow = .reset ∨ c.overflow = .resetDisableDeferred) ∧ c.reset1Pending = false
  /-- (g) -/
  suspendedStable : c.overflow = .resetDisable → c.reset1Pending = false ∧ c.reset2Timer = none
  /-- (h) -/
  quietPending : c.overflow = .resetQuiet → c.reset1Pending = true
  /-- (i) -/
  windowRunning : c.cmpArmed = true ∨ c.cmpFlag = true → c.overflow = .captured ∨ c.overflow = .armed
  /-- (j) -/
  flagArmed : c.cmpFlag = true → c.cmpArmed = true
  /-- (k) -/
  noFatal : c.fatalSeen = false ∧ ∀ code info, CapCall.fatal code info ∉ c.capLog
  /-- (l), the capture latch. -/
  latchWritten : c.capFlag = true → c.capTime ≠ none ∧ c.capLevel ≠ none
  /-- (l), the compare register. -/
  cmpWritten : c.cmpArmed = true → c.cmp ≠ none
  /-- (l), the previous edge. -/
  lastEdgeWritten : c.overflow = .captured ∨ c.overflow = .armed → c.lastEdgeTime ≠ none
  /-- (l), the pending interval. -/
  intervalWritten : c.ivalPending = true → c.thisInterval ≠ none ∧ c.thisLevel ≠ none
  /-- (m) -/
  delayLevels : c.enableDelay = p.enableDelayDefault ∨ c.enableDelay = p.enableDelayBusy
  /-- `ndec <= NDEC_MAX` (10_state R41). -/
  decodersFit : c.decoders.length ≤ p.ndecMax
  /-- The timer registers hold `TW` bits (10_state R29, R30, R42 to R44). -/
  timeFits : c.now < 2 ^ p.tw ∧ BoundedBy (2 ^ p.tw) c.lastEdgeTime ∧ BoundedBy (2 ^ p.tw) c.thisInterval ∧
    BoundedBy (2 ^ p.tw) c.capTime ∧ BoundedBy (2 ^ p.tw) c.cmp

/-- What an encode in flight has: a machine of the stepwise form, a complete and legal configuration, a buffer inside BUF,
and registers that fit the phase (41_encoder R119, R120). -/
structure Enc.InFlight (p : Params) (e : Enc) (k : EncConfig) : Prop where
  sequenced : p.sequenced = true
  configured : e.config = some k
  width : widthLegal k.width = true
  buffer : bufferInRange e.base e.len = true
  inSync : e.phase = .sync → 1 ≤ e.syncLeft.toNat ∧ e.syncLeft.toNat ≤ k.sync.toNat
  inData : e.phase = .data → e.byteIdx.toNat < e.len.toNat ∧ e.bitCnt.toNat < k.width.toNat
  inParity : e.phase = .parity → e.byteIdx.toNat < e.len.toNat ∧ k.parity ≠ .none

/-- The invariants of unit ENC. -/
structure Enc.Inv (p : Params) (e : Enc) : Prop where
  /-- The timing table holds `DW`-bit durations (10_state R21). -/
  tableFits : BoundedBy (2 ^ p.dw) e.times.zeroMark ∧ BoundedBy (2 ^ p.dw) e.times.zeroSpace ∧
    BoundedBy (2 ^ p.dw) e.times.oneMark ∧ BoundedBy (2 ^ p.dw) e.times.oneSpace ∧ BoundedBy (2 ^ p.dw) e.times.idle
  inFlight : e.phase ≠ .idle → ∃ k, Enc.InFlight p e k

/-- The invariant of the machine: legal parameters (00_scope R6), BUF in canonical form, and both units'. -/
structure State.Inv (s : State) : Prop where
  params : s.params.Valid
  buf : Memory.wf s.buf = true
  enc : Enc.Inv s.params s.enc
  cap : Cap.Inv s.params s.cap

/-- The opcode map of 30_encoding R83 as (match, mask) pairs: a word spells an operation when it matches a row. -/
def opcodeRows : List (OpWord × OpWord) :=
  [(0x0100000000000000, 0xFFFFFFFFFFFFFFFF), (0x0200000000000000, 0xFFFFFFFF00000000),
   (0x1000000000000000, 0xFFFFFF0000000000), (0x1100000000000000, 0xFFFFFF00FFFFFFFF),
   (0x1200000000000000, 0xFFFFFFFF00000000), (0x1800000000000000, 0xFF00000000000000),
   (0x2000000000000000, 0xFFFFFFFEFFFFFFFF), (0x2100000000000000, 0xFFFFFFFF00000000),
   (0x2800000000000000, 0xFFFFFFFFFFFFFFFF), (0x2900000000000000, 0xFFFFFFFFFFFFFFFF),
   (0x3000000000000000, 0xFFFFFFFFFFFFFFFF), (0x3100000000000000, 0xFFFFFFFFFFFFFFFF),
   (0x3200000000000000, 0xFFFFFFFFFFFFFFFF), (0x3800000000000000, 0xFFFFFFFFFFFFFFFF),
   (0x3900000000000000, 0xFFFFFFFFFFFFFFFF), (0x3A00000000000000, 0xFFFFFFFFFFFFFFFF),
   (0x3B00000000000000, 0xFFFFFFFFFFFFFFFF)]

/-- How many of the low `w` bits of a byte are set. -/
def setBits (w : Nat) (v : Byte) : Nat := (List.range w).countP fun i => v.getLsbD i

/-- The number of pulses a byte costs: its data bits and the parity pulse, where the mode has one (41_encoder R118). -/
def pulsesPerByte (k : EncConfig) : Nat := k.width.toNat + if k.parity = .none then 0 else 1

/-- What ENCODE asks of a state before its first sink call, in the words of 41_encoder R119: no encode in flight, every
configuration register written (with the values `k`), a legal width, and a buffer inside BUF. -/
structure EncodeReady (base : Addr) (len : BitVec 24) (e : Enc) (k : EncConfig) : Prop where
  idle : e.phase = .idle
  times : e.times = ⟨some k.zeroMark, some k.zeroSpace, some k.oneMark, some k.oneSpace, some k.idle⟩
  sync : e.syncCount = some k.sync
  width : e.bitsPerSymbol = some k.width
  order : e.bitOrder = some k.order
  parity : e.parityMode = some k.parity
  param : e.sinkParam = some k.param
  legal : 1 ≤ k.width.toNat ∧ k.width.toNat ≤ 8
  inBuf : len.toNat = 0 ∨ base.toNat + len.toNat - 1 < 2 ^ 32

/-- What the sink calls of one ENCODE are, by position (41_encoder R118): preamble, start pulse, data and parity pulses of
each byte, end marker, idle marker. -/
structure PulseTrain (k : EncConfig) (m : Memory) (base len : Nat) (calls : List SinkCall) : Prop where
  count : calls.length = k.sync.toNat + 1 + len * pulsesPerByte k + 2
  preamble : ∀ j < k.sync.toNat, calls[j]? = some ⟨k.param, k.zeroMark, k.zeroSpace⟩
  start : calls[k.sync.toNat]? = some ⟨k.param, k.oneMark, k.oneSpace⟩
  data : ∀ i < len, ∀ n < k.width.toNat,
    calls[k.sync.toNat + 1 + i * pulsesPerByte k + n]? =
      some (if (Memory.read m (base + i)).getLsbD (match k.order with | .msbFirst => k.width.toNat - 1 - n | .lsbFirst => n)
            then ⟨k.param, k.oneMark, k.oneSpace⟩ else ⟨k.param, k.zeroMark, k.zeroSpace⟩)
  parity : ∀ i < len, k.parity ≠ .none →
    calls[k.sync.toNat + 1 + i * pulsesPerByte k + k.width.toNat]? =
      some (if (match k.parity with
                | .none | .space => false
                | .mark => true
                | .odd => decide (setBits k.width.toNat (Memory.read m (base + i)) % 2 = 0)
                | .even => decide (setBits k.width.toNat (Memory.read m (base + i)) % 2 = 1))
            then ⟨k.param, k.oneMark, k.oneSpace⟩ else ⟨k.param, k.zeroMark, k.zeroSpace⟩)
  endMark : calls[calls.length - 2]? = some ⟨k.param, k.zeroMark, k.zeroSpace⟩
  idleMark : calls[calls.length - 1]? = some ⟨k.param, 0, k.idle⟩

/-- The operations of unit ENC (10_state R53). -/
def instrIsEnc : Instr → Bool
  | .ttSetup _ _ | .cfgFormat _ _ _ | .cfgSink _ | .encode _ _ => true
  | .init | .decRegister _ | .lineEdge _ | .tick _ | .edgeIsr | .timeoutIsr | .rdDisable | .rdEnable | .frameQueued
  | .runIval | .runReset1 | .runReset2 | .runWen => false

/-- The operations of unit CAP (10_state R53). INIT belongs to both units. -/
def instrIsCap : Instr → Bool
  | .decRegister _ | .lineEdge _ | .tick _ | .edgeIsr | .timeoutIsr | .rdDisable | .rdEnable | .frameQueued
  | .runIval | .runReset1 | .runReset2 | .runWen => true
  | .init | .ttSetup _ _ | .cfgFormat _ _ _ | .cfgSink _ | .encode _ _ => false

/-- A sequence of operations, one after the other, up to the first that has no transition. -/
def execAll : List Instr → State → Host.Outcome State Fault Refusal
  | [], s => .next s
  | i :: ops, s =>
    match exec i s with
    | .next t => execAll ops t
    | .fault f => .fault f
    | .refused r => .refused r

end Sys2Proof.Machine
end

