-- ==== Sys2Proof/Certificates/Slice0/Obligations.lean ====
section
/-! DEFINITION. The statements for the provers, from the numbered rules of spec/. -/

open Sys2Proof Sys2Proof.Machine

/-! ## Encoding -/

/-- 30_encoding R80 to R83, R92: decoding the encoded word gives the operation back, for every operation and every value
of its operands. -/
def Obligations.DecodeInvertsEncode : Prop :=
  ∀ i : Instr, decode (encode i) = .ok i

/-- 30_encoding R80 to R84: a word that decodes is the encoding of what it decodes to, so each operation has one word. -/
def Obligations.DecodedWordsEncodeBack : Prop :=
  ∀ (w : OpWord) (i : Instr), decode w = .ok i → encode i = w

/-- 30_encoding R83, R84: a word decodes exactly when it matches a row of the opcode map. -/
def Obligations.WordDecodesIffItMatchesARow : Prop :=
  ∀ w : OpWord, (∃ i, decode w = .ok i) ↔ ∃ r ∈ opcodeRows, w &&& r.2 = r.1

/-- Words of 30_encoding R92 and 95_test_vectors V1 decode to the operations they are written for. -/
def Obligations.SpecWordsDecodeAsWritten : Prop :=
  decode 0x0100000000000000 = .ok .init ∧ decode 0x020000000000000A = .ok (.decRegister 0xA) ∧
  decode 0x1000000100000100 = .ok (.ttSetup 1 0x100) ∧ decode 0x1100008800000000 = .ok (.cfgFormat 8 0 4) ∧
  decode 0x1100007400000000 = .ok (.cfgFormat 4 1 3) ∧ decode 0x18000001FFFFFFFF = .ok (.encode 0xFFFFFFFF 1) ∧
  decode 0x2000000100000000 = .ok (.lineEdge true) ∧ decode 0x21000000000003E8 = .ok (.tick 1000) ∧
  decode 0x3A00000000000000 = .ok .runReset2 ∧
  decode 0x1100018800000000 = .error (.mustBeZero 0x11) ∧ decode 0x3C00000000000000 = .error (.unassignedOpcode 0x3C)

/-! ## The step, reset, BUF -/

/-- A step takes the next input: with an operation word it is `exec` of the decoded operation on the state without that
input, or the refusal of 30_encoding R84. The input list, the waiting block, the sequencer's turn and the caller's write
are the model's choice (log 7, log 9, log 6). -/
def Obligations.StepTakesTheNextInput : Prop :=
  ∀ s : State,
    (s.inputs = [] → step s = .next s) ∧
    (∀ w rest i, s.inputs = .op w :: rest → decode w = .ok i → step s = exec i { s with inputs := rest }) ∧
    (∀ w rest e, s.inputs = .op w :: rest → decode w = .error e → step s = .refused (.undecodable e)) ∧
    (∀ rest, s.inputs = .encStep :: rest → step s = encStep { s with inputs := rest }) ∧
    (∀ a v rest, s.inputs = .bufWrite a v :: rest →
      step s = .next { s with inputs := rest, buf := Memory.write s.buf a.toNat v })

/-- 70_reset_and_hazards R201, R202 at the default parameters of 00_scope R5: what reset leaves, for every register to
which the spec gives a reset value. -/
def Obligations.ResetLeavesTheStatedValues : Prop :=
  State.reset.params = {
    tw := 16, dw := 16, ndecMax := 8, tSettle := 100, tIdle := 1000, tResetQuiet := 20,
    pulseThreshold := 3, enableDelayDefault := 50, enableDelayBusy := 200, rate := [], sequenced := false } ∧
  State.reset.enc.times = ⟨none, none, none, none, none⟩ ∧ State.reset.enc.syncCount = none ∧
  State.reset.enc.bitsPerSymbol = none ∧ State.reset.enc.bitOrder = none ∧ State.reset.enc.parityMode = none ∧
  State.reset.enc.sinkParam = none ∧ State.reset.enc.phase = .idle ∧ State.reset.enc.sinkLog = [] ∧
  State.reset.cap = {
    overflow := .first, lastEdgeTime := none, thisInterval := none, thisLevel := none, pulseCount := 0,
    enableDelay := 50, decoders := [], started := false, now := 0, capTime := none, capLevel := none,
    capFlag := false, capIe := false, cmp := none, cmpArmed := false, cmpFlag := false, ivalPending := false,
    reset1Pending := false, reset2Timer := none, wenTimer := none, fatalSeen := false, capLog := [],
    epoch := State.reset.cap.epoch }

/-- The invariant holds after reset. -/
def Obligations.ResetMeetsTheInvariant : Prop := State.reset.Inv

/-- 40_config R100, 70_reset_and_hazards R203: INIT completes in every state, puts both units to their reset values with
both logs empty, and leaves BUF, the parameters and the inputs. Three clauses are the model's choice: that the sequencer
registers, which R201 leaves unspecified, hold after INIT what they hold after reset (log 10), the count of INITs (log 4),
and what INIT leaves beside the block's state (log 19). -/
def Obligations.InitPutsEverythingToReset : Prop :=
  ∀ s : State, ∃ t, exec .init s = .next t ∧
    t.enc = State.reset.enc ∧
    t.cap = { State.reset.cap with enableDelay := s.params.enableDelayDefault, epoch := s.cap.epoch + 1 } ∧
    t.enc.sinkLog = [] ∧ t.cap.capLog = [] ∧
    t.params = s.params ∧ t.inputs = s.inputs ∧ ∀ a, Memory.read t.buf a = Memory.read s.buf a

/-- The canonical form in which the model holds BUF, its own choice (log 5): two canonical memories that read alike are
equal. -/
def Obligations.CanonicalBufIsDeterminedByItsReads : Prop :=
  ∀ m m' : Memory, Memory.wf m = true → Memory.wf m' = true →
    (∀ a, Memory.read m a = Memory.read m' a) → m = m'

/-- 20_memory R61, 10_state R49: no operation writes BUF or changes the parameters. -/
def Obligations.OperationsNeverWriteBuf : Prop :=
  ∀ (i : Instr) (s t : State), exec i s = .next t →
    (∀ a, Memory.read t.buf a = Memory.read s.buf a) ∧ t.params = s.params ∧ t.inputs = s.inputs

/-- 20_memory R61, R73: a step changes a byte of BUF only where the caller writes that very byte, and it then reads as
written; ENC_STEP and every operation leave all of it. -/
def Obligations.StepWritesBufOnlyForItsCaller : Prop :=
  ∀ s t : State, step s = .next t → Memory.wf s.buf = true →
    t.params = s.params ∧
    ((∀ a, Memory.read t.buf a = Memory.read s.buf a) ∨
     ∃ a v rest, s.inputs = .bufWrite a v :: rest ∧
       ∀ b, Memory.read t.buf b = if b = a.toNat then v else Memory.read s.buf b)

/-! ## Whole-machine rules -/

/-- 70_reset_and_hazards R213, with the register widths and the encode in flight: every step keeps the invariant. -/
def Obligations.StepKeepsTheInvariant : Prop :=
  ∀ s t : State, s.Inv → step s = .next t → t.Inv

/-- From a state that meets the invariant no step faults: the sequencer's next byte always exists (20_memory R62). -/
def Obligations.NoStepFaultsUnderTheInvariant : Prop :=
  ∀ (s : State) (f : Fault), s.Inv → step s ≠ .fault f

/-- 10_state R20, 41_encoder R120: the units share no state. An operation of one unit leaves the other; ENC_STEP leaves
unit CAP, the Channel Context, the buffer it was given, and everything beside unit ENC. -/
def Obligations.UnitsShareNoState : Prop :=
  (∀ (i : Instr) (s t : State), exec i s = .next t →
    (instrIsCap i = true → t.enc = s.enc) ∧ (instrIsEnc i = true → t.cap = s.cap)) ∧
  (∀ s t : State, encStep s = .next t →
    t.cap = s.cap ∧ t.enc.times = s.enc.times ∧ t.enc.syncCount = s.enc.syncCount ∧
    t.enc.bitsPerSymbol = s.enc.bitsPerSymbol ∧ t.enc.bitOrder = s.enc.bitOrder ∧
    t.enc.parityMode = s.enc.parityMode ∧ t.enc.sinkParam = s.enc.sinkParam ∧
    t.enc.base = s.enc.base ∧ t.enc.len = s.enc.len ∧
    t.params = s.params ∧ t.inputs = s.inputs ∧ ∀ a, Memory.read t.buf a = Memory.read s.buf a)

/-- 00_scope R12, 10_state R20, 60_exceptions R195, 41_encoder R120: an operation of unit ENC and one of unit CAP give the
same state in either order; so do ENC_STEP and an operation of unit CAP, each of which goes ahead, or stops in the same
way, whether or not the other came before. -/
def Obligations.UnitOperationsCommute : Prop :=
  (∀ (i j : Instr) (s a b : State), instrIsEnc i = true → instrIsCap j = true →
    exec i s = .next a → exec j s = .next b → ∃ t, exec j a = .next t ∧ exec i b = .next t) ∧
  (∀ (j : Instr) (s a b : State), instrIsCap j = true →
    encStep s = .next a → exec j s = .next b → ∃ t, exec j a = .next t ∧ encStep b = .next t) ∧
  (∀ (j : Instr) (s a : State) (r : Refusal), instrIsCap j = true → encStep s = .next a →
    (exec j s = .refused r ↔ exec j a = .refused r)) ∧
  (∀ (j : Instr) (s b : State), instrIsCap j = true → exec j s = .next b →
    (∀ r, encStep s = .refused r ↔ encStep b = .refused r) ∧ (∀ f, encStep s = .fault f ↔ encStep b = .fault f))

/-- 10_state R53, the access matrix by columns of what is written: only the listed operations change each piece of state. -/
def Obligations.OnlyListedOperationsWriteEachRegister : Prop :=
  ∀ (i : Instr) (s t : State), exec i s = .next t → i ≠ .init →
    (t.enc.times ≠ s.enc.times ∨ t.enc.syncCount ≠ s.enc.syncCount →
      match i with | .ttSetup _ _ => True | _ => False) ∧
    (t.enc.bitsPerSymbol ≠ s.enc.bitsPerSymbol ∨ t.enc.bitOrder ≠ s.enc.bitOrder ∨
        t.enc.parityMode ≠ s.enc.parityMode →
      match i with | .cfgFormat _ _ _ => True | _ => False) ∧
    (t.enc.sinkParam ≠ s.enc.sinkParam → match i with | .cfgSink _ => True | _ => False) ∧
    (t.enc.sinkLog ≠ s.enc.sinkLog ∨ t.enc.phase ≠ s.enc.phase ∨ t.enc.syncLeft ≠ s.enc.syncLeft ∨
        t.enc.base ≠ s.enc.base ∨ t.enc.len ≠ s.enc.len ∨ t.enc.byteIdx ≠ s.enc.byteIdx ∨ t.enc.byte ≠ s.enc.byte ∨
        t.enc.bitCnt ≠ s.enc.bitCnt ∨ t.enc.par ≠ s.enc.par →
      match i with | .encode _ _ => True | _ => False) ∧
    (t.cap.overflow ≠ s.cap.overflow ∨ t.cap.capIe ≠ s.cap.capIe ∨ t.cap.cmpArmed ≠ s.cap.cmpArmed →
      match i with
      | .edgeIsr | .timeoutIsr | .rdDisable | .rdEnable | .runReset1 | .runReset2 => True | _ => False) ∧
    (t.cap.lastEdgeTime ≠ s.cap.lastEdgeTime ∨ t.cap.thisInterval ≠ s.cap.thisInterval ∨
        t.cap.thisLevel ≠ s.cap.thisLevel ∨ t.cap.fatalSeen ≠ s.cap.fatalSeen →
      match i with | .edgeIsr => True | _ => False) ∧
    (t.cap.pulseCount ≠ s.cap.pulseCount → match i with | .edgeIsr | .runReset1 => True | _ => False) ∧
    (t.cap.enableDelay ≠ s.cap.enableDelay → match i with | .frameQueued | .runReset1 => True | _ => False) ∧
    (t.cap.decoders ≠ s.cap.decoders → match i with | .decRegister _ => True | _ => False) ∧
    (t.cap.started ≠ s.cap.started → match i with | .rdDisable | .rdEnable => True | _ => False) ∧
    (t.cap.now ≠ s.cap.now → match i with | .tick _ => True | _ => False) ∧
    (t.cap.capTime ≠ s.cap.capTime ∨ t.cap.capLevel ≠ s.cap.capLevel →
      match i with | .lineEdge _ => True | _ => False) ∧
    (t.cap.capFlag ≠ s.cap.capFlag →
      match i with | .lineEdge _ | .edgeIsr | .rdEnable | .runReset1 | .runReset2 => True | _ => False) ∧
    (t.cap.cmp ≠ s.cap.cmp → match i with | .edgeIsr | .timeoutIsr => True | _ => False) ∧
    (t.cap.cmpFlag ≠ s.cap.cmpFlag →
      match i with
      | .tick _ | .edgeIsr | .timeoutIsr | .rdDisable | .rdEnable | .runReset1 | .runReset2 => True | _ => False) ∧
    (t.cap.ivalPending ≠ s.cap.ivalPending →
      match i with | .edgeIsr | .runIval | .runReset1 => True | _ => False) ∧
    (t.cap.reset1Pending ≠ s.cap.reset1Pending →
      match i with | .edgeIsr | .timeoutIsr | .rdDisable | .runReset1 => True | _ => False) ∧
    (t.cap.reset2Timer ≠ s.cap.reset2Timer →
      match i with | .tick _ | .rdEnable | .runReset1 | .runReset2 => True | _ => False) ∧
    (t.cap.wenTimer ≠ s.cap.wenTimer → match i with | .tick _ | .runReset1 | .runWen => True | _ => False) ∧
    (t.cap.capLog ≠ s.cap.capLog →
      match i with | .edgeIsr | .runIval | .runReset1 | .runWen => True | _ => False)

/-- 10_state R48, 41_encoder R120: the logs are append-only, and of the operations only INIT clears them. ENC_STEP appends
at most one call to `sink_log`, exactly one under the invariant, and none to `cap_log`. -/
def Obligations.LogsOnlyGrowAtTheEnd : Prop :=
  (∀ (i : Instr) (s t : State), exec i s = .next t → i ≠ .init →
    (∃ calls, t.enc.sinkLog = s.enc.sinkLog ++ calls) ∧ (∃ calls, t.cap.capLog = s.cap.capLog ++ calls)) ∧
  (∀ s t : State, encStep s = .next t →
    ∃ calls, t.enc.sinkLog = s.enc.sinkLog ++ calls ∧ calls.length ≤ 1 ∧ (s.Inv → calls.length = 1) ∧
      t.cap.capLog = s.cap.capLog)

/-- 60_exceptions R195, 44_deferred_tasks R161, R162, 42_capture_events R134: which operation makes which call on
`cap_log`, and where. -/
def Obligations.EachCapCallHasOneSource : Prop :=
  ∀ (i : Instr) (s t : State) (calls : List CapCall), exec i s = .next t → i ≠ .init →
    t.cap.capLog = s.cap.capLog ++ calls → ∀ call ∈ calls,
      match call with
      | .onInterval dec d l => i = .runIval ∧ dec ∈ s.cap.decoders ∧
          (s.cap.overflow = .first ∨ s.cap.overflow = .armed ∨ s.cap.overflow = .captured) ∧
          (∀ x, s.cap.thisInterval = some x → d = x) ∧ (∀ x, s.cap.thisLevel = some x → l = x)
      | .onReset dec => i = .runReset1 ∧ dec ∈ s.cap.decoders
      | .writerEnable => i = .runWen ∧ s.cap.wenTimer = some 0
      | .writerDisable => i = .edgeIsr ∧ (s.cap.overflow = .first ∨ s.cap.overflow = .armed) ∧
          t.cap.pulseCount = s.params.pulseThreshold ∧ t.cap.pulseCount.toNat = s.cap.pulseCount.toNat + 1
      | .fatal code info => i = .edgeIsr ∧ code = 1 ∧ info = overflowCode s.cap.overflow ∧
          s.cap.overflow ≠ .first ∧ s.cap.overflow ≠ .armed

/-- 60_exceptions R181: `FATAL_PROTOCOL`, code 1, is raised by EDGE_ISR taken in `CAPTURED` or a reset state and by no
other operation, records the code of `overflow`, and is unreachable under the invariant. -/
def Obligations.FatalProtocolOnlyFromUnexpectedCapture : Prop :=
  (∀ (i : Instr) (s t : State) (calls : List CapCall) (code : BitVec 8) (info : BitVec 3), exec i s = .next t →
    i ≠ .init → t.cap.capLog = s.cap.capLog ++ calls → CapCall.fatal code info ∈ calls →
      i = .edgeIsr ∧ code = 1 ∧ (s.cap.overflow = .captured ∨ s.cap.overflow = .reset ∨
        s.cap.overflow = .resetQuiet ∨ s.cap.overflow = .resetDisable ∨ s.cap.overflow = .resetDisableDeferred)) ∧
  (∀ s t : State, exec .edgeIsr s = .next t → s.cap.overflow ≠ .first → s.cap.overflow ≠ .armed →
    t.cap.capLog = s.cap.capLog ++ [.fatal 1 (match s.cap.overflow with
      | .first => 0 | .armed => 1 | .captured => 2 | .reset => 3 | .resetQuiet => 4 | .resetDisable => 5
      | .resetDisableDeferred => 6)] ∧ t.cap.fatalSeen = true) ∧
  (∀ s t : State, s.Inv → exec .edgeIsr s = .next t →
    (s.cap.overflow = .first ∨ s.cap.overflow = .armed) ∧ t.cap.fatalSeen = false)

/-- 70_reset_and_hazards R212: the complete transition table of `overflow`. -/
def Obligations.OverflowFollowsTheTransitionTable : Prop :=
  ∀ (i : Instr) (s t : State), exec i s = .next t →
    t.cap.overflow =
      match i, s.cap.overflow with
      | .init, _ => .first
      | .edgeIsr, .first => .captured
      | .edgeIsr, .armed => if s.cap.ivalPending then .reset else .captured
      | .timeoutIsr, .armed => .resetQuiet
      | .timeoutIsr, .captured => if s.cap.capFlag then .resetQuiet else .armed
      | .rdDisable, .resetDisable => .resetDisable
      | .rdDisable, _ => .resetDisableDeferred
      | .rdEnable, .resetDisableDeferred => .reset
      | .rdEnable, _ => .first
      | .runReset1, .reset => .reset
      | .runReset1, .resetDisableDeferred => .resetDisable
      | .runReset1, _ => .first
      | .runReset2, .resetDisableDeferred => .resetDisable
      | .runReset2, _ => .first
      | _, o => o

/-- 70_reset_and_hazards R213 (g): the suspended state is stable until RD_ENABLE or INIT. -/
def Obligations.SuspendedUntilEnabled : Prop :=
  ∀ (i : Instr) (s t : State), s.Inv → s.cap.overflow = .resetDisable → exec i s = .next t →
    i ≠ .init → i ≠ .rdEnable →
      t.cap.overflow = .resetDisable ∧ t.cap.capIe = false ∧ ∀ u, exec .edgeIsr t ≠ .next u

/-- 30_encoding R84, 00_scope R10, 60_exceptions R184, R185, 44_deferred_tasks R160: the two handlers and the four tasks
run exactly when enabled, and are otherwise refused as not enabled. -/
def Obligations.GuardedOperationsRunExactlyWhenEnabled : Prop :=
  ∀ s : State,
    ((∃ t, exec .edgeIsr s = .next t) ↔ s.cap.capFlag = true ∧ s.cap.capIe = true) ∧
    ((∃ t, exec .timeoutIsr s = .next t) ↔ s.cap.cmpFlag = true) ∧
    ((∃ t, exec .runIval s = .next t) ↔ s.cap.ivalPending = true) ∧
    ((∃ t, exec .runReset1 s = .next t) ↔ s.cap.reset1Pending = true) ∧
    ((∃ t, exec .runReset2 s = .next t) ↔ s.cap.reset2Timer = some 0) ∧
    ((∃ t, exec .runWen s = .next t) ↔ s.cap.wenTimer = some 0) ∧
    ∀ i ∈ [Instr.edgeIsr, .timeoutIsr, .runIval, .runReset1, .runReset2, .runWen],
      (∃ t, exec i s = .next t) ∨ exec i s = .refused .notEnabled

/-! ## Lifecycle and configuration -/

/-- 40_config R101: DEC_REGISTER appends one entry; it is refused once capture has started and when the list is full. -/
def Obligations.DecRegisterAppendsUntilClosed : Prop :=
  ∀ (id : DecoderId) (s : State),
    (s.cap.started = false → s.cap.decoders.length < s.params.ndecMax →
      exec (.decRegister id) s = .next { s with cap := { s.cap with decoders := s.cap.decoders ++ [id] } }) ∧
    (s.cap.started = true → exec (.decRegister id) s = .refused .decoderListClosed) ∧
    (s.cap.started = false → s.params.ndecMax ≤ s.cap.decoders.length →
      exec (.decRegister id) s = .refused .decoderListFull)

/-- 40_config R102, 20_memory R63: TT_SETUP converts the five code bytes in ascending order, stores the table and the
preamble length, and changes nothing else; a code array that passes the last address is refused. -/
def Obligations.TtSetupLoadsTheTable : Prop :=
  ∀ (sync : BitVec 8) (codes : Addr) (s : State), s.enc.phase = .idle →
    (codes.toNat + 4 < 2 ^ 32 →
      exec (.ttSetup sync codes) s = .next { s with enc := { s.enc with
        times := {
          zeroMark := some (rate s.params (Memory.read s.buf codes.toNat))
          zeroSpace := some (rate s.params (Memory.read s.buf (codes.toNat + 1)))
          oneMark := some (rate s.params (Memory.read s.buf (codes.toNat + 2)))
          oneSpace := some (rate s.params (Memory.read s.buf (codes.toNat + 3)))
          idle := some (rate s.params (Memory.read s.buf (codes.toNat + 4))) }
        syncCount := some sync } }) ∧
    (2 ^ 32 ≤ codes.toNat + 4 → exec (.ttSetup sync codes) s = .refused .codesOutOfRange)

/-- 40_config R103, 30_encoding R85, R86: CFG_FORMAT writes the three format registers, any width included, and changes
nothing else; a reserved parity code is refused. -/
def Obligations.CfgFormatWritesTheFormat : Prop :=
  ∀ (w : BitVec 4) (order : BitVec 1) (pmode : BitVec 3) (s : State), s.enc.phase = .idle →
    (∀ mode : ParityMode, (pmode, mode) ∈ [((0 : BitVec 3), ParityMode.none), (1, .mark), (2, .space), (3, .odd), (4, .even)] →
      exec (.cfgFormat w order pmode) s = .next { s with enc := { s.enc with
        bitsPerSymbol := some w
        bitOrder := some (if order = 1 then .lsbFirst else .msbFirst)
        parityMode := some mode } }) ∧
    (5 ≤ pmode.toNat → exec (.cfgFormat w order pmode) s = .refused .reservedParity)

/-- 40_config R104: CFG_SINK writes the sink parameter and changes nothing else. -/
def Obligations.CfgSinkWritesTheParameter : Prop :=
  ∀ (param : BitVec 32) (s : State), s.enc.phase = .idle →
    exec (.cfgSink param) s = .next { s with enc := { s.enc with sinkParam := some param } }

/-- 40_config R105: TT_SETUP, CFG_FORMAT, CFG_SINK and ENCODE are refused while an encode is in flight. -/
def Obligations.ConfigurationIsFrozenDuringAnEncode : Prop :=
  ∀ s : State, s.enc.phase ≠ .idle →
    (∀ sync codes, exec (.ttSetup sync codes) s = .refused .encodeInFlight) ∧
    (∀ w order pmode, exec (.cfgFormat w order pmode) s = .refused .encodeInFlight) ∧
    (∀ param, exec (.cfgSink param) s = .refused .encodeInFlight) ∧
    (∀ base len, exec (.encode base len) s = .refused .encodeInFlight)

/-! ## The Bit Encoder -/

/-- 41_encoder R119: ENCODE has a transition exactly when none of the refusal conditions holds; a refused ENCODE has no
next state at all. -/
def Obligations.EncodeRunsExactlyWhenReady : Prop :=
  ∀ (base : Addr) (len : BitVec 24) (s : State),
    ((∃ t, exec (.encode base len) s = .next t) ↔ ∃ k, EncodeReady base len s.enc k) ∧
    ((¬ ∃ k, EncodeReady base len s.enc k) → ∃ r, exec (.encode base len) s = .refused r)

/-- 41_encoder R110, R118: one atomic ENCODE appends its whole pulse train to `sink_log`, call by call where R118 puts
it, changes no configuration register and nothing of unit CAP or BUF, and leaves no encode in flight. -/
def Obligations.EncodeEmitsThePulseTrain : Prop :=
  ∀ (base : Addr) (len : BitVec 24) (s : State) (k : EncConfig), s.params.sequenced = false →
    EncodeReady base len s.enc k →
      ∃ t calls, exec (.encode base len) s = .next t ∧ t.enc.sinkLog = s.enc.sinkLog ++ calls ∧
        PulseTrain k s.buf base.toNat len.toNat calls ∧
        t.enc.phase = .idle ∧ t.enc.times = s.enc.times ∧ t.enc.syncCount = s.enc.syncCount ∧
        t.enc.bitsPerSymbol = s.enc.bitsPerSymbol ∧ t.enc.bitOrder = s.enc.bitOrder ∧
        t.enc.parityMode = s.enc.parityMode ∧ t.enc.sinkParam = s.enc.sinkParam ∧ t.cap = s.cap ∧
        t.params = s.params ∧ t.inputs = s.inputs ∧ ∀ a, Memory.read t.buf a = Memory.read s.buf a

/-- 41_encoder R120: in the stepwise form ENCODE only starts the sequencer. -/
def Obligations.SequencedEncodeStartsTheSequencer : Prop :=
  ∀ (base : Addr) (len : BitVec 24) (s : State) (k : EncConfig), s.params.sequenced = true →
    EncodeReady base len s.enc k →
      exec (.encode base len) s = .next { s with enc := { s.enc with
        base := base, len := len, syncLeft := k.sync, byteIdx := 0,
        phase := if k.sync = 0 then .start else .sync } }

/-- 41_encoder R120: running ENC_STEP as often as R118 counts sink calls takes a started encode to its end, and leaves
unit ENC exactly as the atomic ENCODE of the same machine would have left it (its sequencer registers are log 11's). -/
def Obligations.SequencerRefinesAtomicEncode : Prop :=
  ∀ (base : Addr) (len : BitVec 24) (s t v : State) (k : EncConfig), s.params.sequenced = true →
    EncodeReady base len s.enc k → exec (.encode base len) s = .next t →
    exec (.encode base len) { s with params := { s.params with sequenced := false } } = .next v →
      Sys2Proof.core.run (k.sync.toNat + 1 + len.toNat * pulsesPerByte k + 2)
          { t with inputs := List.replicate (k.sync.toNat + 1 + len.toNat * pulsesPerByte k + 2) .encStep } =
        .next { s with enc := v.enc, inputs := [] }

/-- 41_encoder R121 (d): what an ENCODE emits depends only on the Channel Context and the `len` bytes it reads. -/
def Obligations.EncodeOutputDependsOnlyOnContextAndBytes : Prop :=
  ∀ (base : Addr) (len : BitVec 24) (s s' t : State), s.params.sequenced = false → s'.params.sequenced = false →
    s'.enc.phase = .idle → s'.enc.times = s.enc.times → s'.enc.syncCount = s.enc.syncCount →
    s'.enc.bitsPerSymbol = s.enc.bitsPerSymbol → s'.enc.bitOrder = s.enc.bitOrder →
    s'.enc.parityMode = s.enc.parityMode → s'.enc.sinkParam = s.enc.sinkParam →
    (∀ i < len.toNat, Memory.read s'.buf (base.toNat + i) = Memory.read s.buf (base.toNat + i)) →
    exec (.encode base len) s = .next t →
      ∃ t' calls, exec (.encode base len) s' = .next t' ∧
        t.enc.sinkLog = s.enc.sinkLog ++ calls ∧ t'.enc.sinkLog = s'.enc.sinkLog ++ calls

/-- 41_encoder R121 (a): where a one-pulse differs from a zero-pulse, the sink calls of an ENCODE determine the low `w`
bits of every byte encoded, in either bit order and every parity mode. -/
def Obligations.EncodedCallsDetermineTheBytes : Prop :=
  ∀ (base : Addr) (len : BitVec 24) (s s' t t' : State) (k : EncConfig) (calls : List SinkCall),
    s.params.sequenced = false → s'.params.sequenced = false →
    EncodeReady base len s.enc k → EncodeReady base len s'.enc k →
    (k.zeroMark, k.zeroSpace) ≠ (k.oneMark, k.oneSpace) →
    exec (.encode base len) s = .next t → exec (.encode base len) s' = .next t' →
    t.enc.sinkLog = s.enc.sinkLog ++ calls → t'.enc.sinkLog = s'.enc.sinkLog ++ calls →
      ∀ i < len.toNat, ∀ b < k.width.toNat,
        (Memory.read s.buf (base.toNat + i)).getLsbD b = (Memory.read s'.buf (base.toNat + i)).getLsbD b

/-- 41_encoder R113: the running parity starts at 0 with each byte, takes in each data bit by exclusive or, is 1 exactly
when the byte has an odd number of set bits among its low `w` bits, and does not depend on the order of the bits. -/
def Obligations.RunningParityIsTheOddnessOfSetBits : Prop :=
  (runningParity [] = false ∧ ∀ bits b, runningParity (bits ++ [b]) = (runningParity bits ^^ b)) ∧
  ∀ (k : EncConfig) (v : Byte),
    byteParity k v = runningParity (dataBits k v) ∧
    byteParity k v = decide (setBits k.width.toNat v % 2 = 1) ∧
    ∀ o, byteParity { k with order := o } v = byteParity k v

/-- 41_encoder R114: the parity pulse of each mode, from the running parity and from the number of set bits; with odd
parity the `w + 1` pulses of a byte always hold an odd number of one-pulses, with even parity an even number. -/
def Obligations.ParityPulseFollowsTheMode : Prop :=
  ∀ (k : EncConfig) (v : Byte),
    (k.parity = .none → byteBits k v = dataBits k v) ∧
    (k.parity = .mark → byteBits k v = dataBits k v ++ [true]) ∧
    (k.parity = .space → byteBits k v = dataBits k v ++ [false]) ∧
    (k.parity = .odd → byteBits k v = dataBits k v ++ [byteParity k v ^^ true] ∧
      byteBits k v = dataBits k v ++ [decide (setBits k.width.toNat v % 2 = 0)] ∧
      (byteBits k v).count true % 2 = 1) ∧
    (k.parity = .even → byteBits k v = dataBits k v ++ [byteParity k v] ∧
      byteBits k v = dataBits k v ++ [decide (setBits k.width.toNat v % 2 = 1)] ∧
      (byteBits k v).count true % 2 = 0)

/-- 41_encoder R115: for `sync_count = N`, exactly `N` zero-pulses precede exactly one one-pulse before the first data
bit, for every `N`, none included. -/
def Obligations.SyncPreambleThenOneStartPulse : Prop :=
  ∀ (base : Addr) (len : BitVec 24) (s t : State) (k : EncConfig) (calls : List SinkCall), s.params.sequenced = false →
    EncodeReady base len s.enc k → exec (.encode base len) s = .next t →
    t.enc.sinkLog = s.enc.sinkLog ++ calls →
      (∃ rest, calls = List.replicate k.sync.toNat ⟨k.param, k.zeroMark, k.zeroSpace⟩ ++
        ⟨k.param, k.oneMark, k.oneSpace⟩ ::
          ((Memory.bytes s.buf base.toNat len.toNat).flatMap (byteBits k)).map (pulse k) ++ rest ∧ rest.length = 2) ∧
      (k.sync = 0 → calls.head? = some ⟨k.param, k.oneMark, k.oneSpace⟩)

/-- 41_encoder R116, R117: whatever the bytes and the parity mode, the last sink calls of an ENCODE are one zero-pulse,
with the durations of any zero-bit, and the idle marker, whose mark is the constant 0. -/
def Obligations.EndMarkerThenIdleMarker : Prop :=
  ∀ (base : Addr) (len : BitVec 24) (s t : State) (k : EncConfig), s.params.sequenced = false →
    EncodeReady base len s.enc k → exec (.encode base len) s = .next t →
      ∃ before, t.enc.sinkLog = s.enc.sinkLog ++ before ++
        [⟨k.param, k.zeroMark, k.zeroSpace⟩, ⟨k.param, 0, k.idle⟩] ∧
        before.length = k.sync.toNat + 1 + len.toNat * pulsesPerByte k

/-! ## Capture events -/

/-- 42_capture_events R130: LINE_EDGE latches the time and the level in every state, over an earlier edge too, and changes
nothing else. -/
def Obligations.LineEdgeLatchesInEveryState : Prop :=
  ∀ (level : Bool) (s : State), exec (.lineEdge level) s =
    .next { s with cap := { s.cap with capTime := some s.cap.now, capLevel := some level, capFlag := true } }

/-- 42_capture_events R131, R222: TICK completes in every state; the timer advances modulo `2^TW`, the delay timers count
down to 0 and stay there, the compare flag is never cleared and never set while the compare is disarmed, and nothing else
changes. -/
def Obligations.TickAdvancesTimeOnly : Prop :=
  ∀ (n : BitVec 32) (s : State), s.cap.now < 2 ^ s.params.tw →
    ∃ t flag, exec (.tick n) s = .next t ∧
      t = { s with cap := { s.cap with
        now := (s.cap.now + n.toNat) % 2 ^ s.params.tw
        cmpFlag := flag
        reset2Timer := s.cap.reset2Timer.map fun k => BitVec.ofNat 16 (k.toNat - n.toNat)
        wenTimer := s.cap.wenTimer.map fun k => BitVec.ofNat 16 (k.toNat - n.toNat) } } ∧
      (s.cap.cmpFlag = true → flag = true) ∧ (s.cap.cmpArmed = false → flag = s.cap.cmpFlag) ∧
      (s.cap.cmpArmed = true → ∀ v, s.cap.cmp = some v →
        (flag = true ↔ s.cap.cmpFlag = true ∨ ∃ j, 1 ≤ j ∧ j ≤ n.toNat ∧ (s.cap.now + j) % 2 ^ s.params.tw = v))

/-- 42_capture_events R131: TICK is its loop, tick by tick (log 12 gives the form the model runs). -/
def Obligations.TickIsItsLoop : Prop :=
  ∀ (p : Params) (n : Nat) (c : Cap), tickBy p n c = tickLoop p n c

/-- 42_capture_events R131: `TICK a; TICK b` equals `TICK (a + b)`. -/
def Obligations.TicksAddUp : Prop :=
  ∀ (a b : BitVec 32) (s t : State), a.toNat + b.toNat < 2 ^ 32 → exec (.tick a) s = .next t →
    exec (.tick b) t = exec (.tick (a + b)) s

/-- 42_capture_events R131, R132: a window armed with `arm_cmp(T)`, `1 <= T < 2^TW`, raises `cmp_flag` at the `T`-th
following tick exactly, and the flag then stays. -/
def Obligations.WindowEndsExactlyAtItsTick : Prop :=
  ∀ (p : Params) (w n : Nat) (c : Cap), 1 ≤ w → w < 2 ^ p.tw →
    (tickBy p n (armCmp p w c)).cmpFlag = decide (w ≤ n)

/-- 44_deferred_tasks R167, R164, R165: a timer standing at `Some k` enables its task after exactly `k` ticks. -/
def Obligations.DelayTimersEnableAfterExactlyTheirDelay : Prop :=
  ∀ (n : BitVec 32) (k : BitVec 16) (s t : State), exec (.tick n) s = .next t →
    (s.cap.wenTimer = some k → ((∃ u, exec .runWen t = .next u) ↔ k.toNat ≤ n.toNat)) ∧
    (s.cap.reset2Timer = some k → ((∃ u, exec .runReset2 t = .next u) ↔ k.toNat ≤ n.toNat))

/-- 42_capture_events R136, R137, R134: EDGE_ISR in FIRST primes the pipeline: it takes the captured time, counts the edge
(saturating; `writer_disable()` when the count lands on the threshold), opens the settle window from `now`, masks the
capture event, moves to CAPTURED, and changes nothing else. -/
def Obligations.EdgeIsrPrimesInFirst : Prop :=
  ∀ (s : State) (t : Nat), s.cap.capFlag = true → s.cap.capIe = true → s.cap.overflow = .first →
    s.cap.capTime = some t →
      exec .edgeIsr s = .next { s with cap := { s.cap with
        capFlag := false
        lastEdgeTime := some t
        pulseCount := if s.cap.pulseCount = 255 then 255 else s.cap.pulseCount + 1
        capLog := s.cap.capLog ++
          if s.cap.pulseCount ≠ 255 ∧ s.cap.pulseCount + 1 = s.params.pulseThreshold then [.writerDisable] else []
        cmp := some ((s.cap.now + s.params.tSettle) % 2 ^ s.params.tw)
        cmpArmed := true
        cmpFlag := false
        capIe := false
        overflow := .captured } }

/-- 42_capture_events R136, R138, R135, R134: EDGE_ISR in ARMED with no interval task pending accepts the edge: the
interval is the difference of the two times modulo `2^TW`, the level and the time are taken, the interval task is
submitted, and the rest is as in FIRST. -/
def Obligations.EdgeIsrAcceptsInArmed : Prop :=
  ∀ (s : State) (t u : Nat) (l : Bool), s.cap.capFlag = true → s.cap.capIe = true → s.cap.overflow = .armed →
    s.cap.ivalPending = false → s.cap.capTime = some t → s.cap.capLevel = some l → s.cap.lastEdgeTime = some u →
    u < 2 ^ s.params.tw →
      ∃ d : Nat, (d : Int) = ((t : Int) - (u : Int)) % ((2 ^ s.params.tw : Nat) : Int) ∧
        exec .edgeIsr s = .next { s with cap := { s.cap with
          capFlag := false
          thisInterval := some d
          thisLevel := some l
          lastEdgeTime := some t
          ivalPending := true
          pulseCount := if s.cap.pulseCount = 255 then 255 else s.cap.pulseCount + 1
          capLog := s.cap.capLog ++
            if s.cap.pulseCount ≠ 255 ∧ s.cap.pulseCount + 1 = s.params.pulseThreshold then [.writerDisable] else []
          cmp := some ((s.cap.now + s.params.tSettle) % 2 ^ s.params.tw)
          cmpArmed := true
          cmpFlag := false
          capIe := false
          overflow := .captured } }

/-- 42_capture_events R138, R133, R134: EDGE_ISR in ARMED with the interval task still pending is an overrun: the edge is
counted, capture and compare are disarmed, the first-phase reset work is submitted, the state is RESET, and the interval,
its level, the previous edge's time and the pending task stay as they were. -/
def Obligations.EdgeIsrOverrunEntersReset : Prop :=
  ∀ s : State, s.cap.capFlag = true → s.cap.capIe = true → s.cap.overflow = .armed → s.cap.ivalPending = true →
    exec .edgeIsr s = .next { s with cap := { s.cap with
      capFlag := false
      pulseCount := if s.cap.pulseCount = 255 then 255 else s.cap.pulseCount + 1
      capLog := s.cap.capLog ++
        if s.cap.pulseCount ≠ 255 ∧ s.cap.pulseCount + 1 = s.params.pulseThreshold then [.writerDisable] else []
      cmpArmed := false
      cmpFlag := false
      capIe := false
      reset1Pending := true
      overflow := .reset } }

/-- 42_capture_events R139, 60_exceptions R180: EDGE_ISR in any other state calls the fatal hook with code 1 and the code
of `overflow`, sets `fatal_seen`, acknowledges the capture, and changes nothing else. -/
def Obligations.EdgeIsrElsewhereReportsFatal : Prop :=
  ∀ (s : State) (info : BitVec 3), s.cap.capFlag = true → s.cap.capIe = true →
    (s.cap.overflow, info) ∈ [(Overflow.captured, (2 : BitVec 3)), (.reset, 3), (.resetQuiet, 4), (.resetDisable, 5),
      (.resetDisableDeferred, 6)] →
      exec .edgeIsr s = .next { s with cap := { s.cap with
        capFlag := false, fatalSeen := true, capLog := s.cap.capLog ++ [.fatal 1 info] } }

/-- 70_reset_and_hazards R218, R209: after an overrun neither the overrunning edge's interval nor the overtaken one reaches
a decoder, unless the owner interposes RD_ENABLE. The interval task taken next discards what is pending and cannot run
again; under the invariant, whatever operations but INIT, RD_ENABLE and the first phase follow, they log no call but
`writer_enable`, and the first phase then broadcasts and leaves no interval pending. With RD_ENABLE interposed the
interval task delivers the overtaken interval, with its own level, and not the overrunning edge's. -/
def Obligations.OverrunDispatchesNoInterval : Prop :=
  ∀ s a : State, s.cap.overflow = .armed → s.cap.ivalPending = true → exec .edgeIsr s = .next a →
    (∀ b, exec .runIval a = .next b →
      b.cap.capLog = a.cap.capLog ∧ b.cap.ivalPending = false ∧ ∀ u, exec .runIval b ≠ .next u) ∧
    (s.Inv → ∀ (ops : List Instr) (b : State), (∀ i ∈ ops, i ≠ .init ∧ i ≠ .rdEnable ∧ i ≠ .runReset1) →
      execAll ops a = .next b →
        (∃ calls, b.cap.capLog = a.cap.capLog ++ calls ∧ ∀ call ∈ calls, call = .writerEnable) ∧
        ∃ c, exec .runReset1 b = .next c ∧ c.cap.capLog = b.cap.capLog ++ b.cap.decoders.map .onReset ∧
          c.cap.ivalPending = false) ∧
    (∀ (d : Nat) (l : Bool), s.cap.thisInterval = some d → s.cap.thisLevel = some l →
      ∃ b c, exec .rdEnable a = .next b ∧ exec .runIval b = .next c ∧
        c.cap.capLog = a.cap.capLog ++ s.cap.decoders.map fun dec => .onInterval dec d l)

/-- 42_capture_events R140: TIMEOUT_ISR is the word `opc 0x29` of format Z and is refused unless `cmp_flag = 1`; in
CAPTURED it goes to RESET_QUIET if an edge is latched, else it re-arms the longer window and capture and moves to ARMED; in
ARMED it goes to RESET_QUIET; it counts no edge, makes no call, and changes nothing else. -/
def Obligations.TimeoutIsrClosesTheWindow : Prop :=
  decode 0x2900000000000000 = .ok .timeoutIsr ∧ ∀ s : State,
    (s.cap.cmpFlag = false → exec .timeoutIsr s = .refused .notEnabled) ∧
    (s.cap.cmpFlag = true → s.cap.overflow = .captured → s.cap.capFlag = true →
      exec .timeoutIsr s = .next { s with cap := { s.cap with
        cmpFlag := false, cmpArmed := false, capIe := false, reset1Pending := true, overflow := .resetQuiet } }) ∧
    (s.cap.cmpFlag = true → s.cap.overflow = .captured → s.cap.capFlag = false →
      exec .timeoutIsr s = .next { s with cap := { s.cap with
        cmp := some ((s.cap.now + s.params.tIdle) % 2 ^ s.params.tw)
        cmpFlag := false, cmpArmed := true, capIe := true, overflow := .armed } }) ∧
    (s.cap.cmpFlag = true → s.cap.overflow = .armed →
      exec .timeoutIsr s = .next { s with cap := { s.cap with
        cmpFlag := false, cmpArmed := false, capIe := false, reset1Pending := true, overflow := .resetQuiet } })

/-- 42_capture_events R141: TIMEOUT_ISR in any other state only acknowledges the compare event. -/
def Obligations.TimeoutIsrElsewhereOnlyAcknowledges : Prop :=
  ∀ s : State, s.cap.cmpFlag = true → s.cap.overflow ≠ .captured → s.cap.overflow ≠ .armed →
    exec .timeoutIsr s = .next { s with cap := { s.cap with cmpFlag := false, cmpArmed := false } }

/-! ## Owner requests -/

/-- 43_requests R150, R154: RD_DISABLE completes in every state, state by state, and changes nothing else. -/
def Obligations.RdDisableLeavesTheMemo : Prop :=
  ∀ s : State, exec .rdDisable s = .next { s with cap :=
    match s.cap.overflow with
    | .first | .armed | .captured => { s.cap with
        started := true, overflow := .resetDisableDeferred, capIe := false, cmpArmed := false, cmpFlag := false,
        reset1Pending := true }
    | .resetQuiet => { s.cap with started := true, overflow := .resetDisableDeferred, reset1Pending := true }
    | .reset => { s.cap with started := true, overflow := .resetDisableDeferred }
    | .resetDisableDeferred | .resetDisable => { s.cap with started := true } }

/-- 43_requests R151, R154, 44_deferred_tasks R163: RD_ENABLE completes in every state: it cancels a remembered disable,
and otherwise re-arms capture at FIRST, with no call and no change of the counters or of the pending tasks. -/
def Obligations.RdEnableCancelsOrRearms : Prop :=
  ∀ s : State,
    (s.cap.overflow = .resetDisableDeferred →
      exec .rdEnable s = .next { s with cap := { s.cap with started := true, overflow := .reset } }) ∧
    (s.cap.overflow ≠ .resetDisableDeferred →
      exec .rdEnable s = .next { s with cap := { s.cap with
        started := true, reset2Timer := none, capFlag := false, capIe := true, cmpArmed := false, cmpFlag := false,
        overflow := .first } })

/-- 43_requests R152: FRAME_QUEUED completes in every state and raises `enable_delay` to at least `ENABLE_DELAY_BUSY`;
nothing else changes. -/
def Obligations.FrameQueuedRaisesTheDelay : Prop :=
  ∀ s : State, ∃ d : BitVec 16, d.toNat = max s.cap.enableDelay.toNat s.params.enableDelayBusy.toNat ∧
    exec .frameQueued s = .next { s with cap := { s.cap with enableDelay := d } }

/-- 43_requests R150, 70_reset_and_hazards R217: a second disable request changes nothing, and however many requests
precede the first phase, it makes one broadcast, in registration order, and is then no longer enabled. -/
def Obligations.RequestsMergeIntoOneBroadcast : Prop :=
  ∀ s a b c : State, s.cap.reset1Pending = true → exec .rdDisable s = .next a → exec .rdDisable a = .next b →
    exec .runReset1 b = .next c →
      b = a ∧ c.cap.capLog = s.cap.capLog ++ s.cap.decoders.map .onReset ∧ ∀ u, exec .runReset1 c ≠ .next u

/-! ## Deferred tasks -/

/-- 44_deferred_tasks R161: RUN_IVAL delivers the accepted interval to every decoder in registration order, or discards it
in a reset state; it clears `ival_pending` and changes nothing else. -/
def Obligations.RunIvalDeliversOrDiscards : Prop :=
  ∀ (s : State) (d : Nat) (l : Bool), s.cap.ivalPending = true →
    s.cap.thisInterval = some d → s.cap.thisLevel = some l →
      exec .runIval s = .next { s with cap := { s.cap with
        ivalPending := false
        capLog := match s.cap.overflow with
          | .reset | .resetQuiet | .resetDisable | .resetDisableDeferred => s.cap.capLog
          | .first | .armed | .captured => s.cap.capLog ++ s.cap.decoders.map fun dec => .onInterval dec d l } }

/-- 44_deferred_tasks R162, R163: RUN_RESET1 broadcasts `on_reset` once to each decoder in registration order, discards a
pending interval, schedules the second phase or finalises a disable or re-arms capture by the state, schedules the
transmitter re-enable with the delay as it stood if the threshold was reached, clears both counters, and changes nothing
else. -/
def Obligations.RunReset1DoesTheFirstPhase : Prop :=
  ∀ s : State, s.cap.reset1Pending = true →
    ∃ c : Cap, c = { s.cap with
        reset1Pending := false
        ivalPending := false
        capLog := s.cap.capLog ++ s.cap.decoders.map .onReset
        wenTimer := if s.params.pulseThreshold.toNat ≤ s.cap.pulseCount.toNat then some s.cap.enableDelay
          else s.cap.wenTimer
        pulseCount := 0
        enableDelay := s.params.enableDelayDefault } ∧
      exec .runReset1 s = .next { s with cap :=
        match s.cap.overflow with
        | .reset => { c with reset2Timer := some s.params.tResetQuiet }
        | .resetDisableDeferred => { c with overflow := .resetDisable }
        | .first | .armed | .captured | .resetQuiet | .resetDisable => { c with
            reset2Timer := none, capFlag := false, capIe := true, cmpArmed := false, cmpFlag := false,
            overflow := .first } }

/-- 44_deferred_tasks R164, R163: RUN_RESET2 finalises a disable remembered during the quiet delay, and otherwise re-arms
capture at FIRST; it consumes its timer and changes nothing else. -/
def Obligations.RunReset2DoesTheSecondPhase : Prop :=
  ∀ s : State, s.cap.reset2Timer = some 0 →
    (s.cap.overflow = .resetDisableDeferred →
      exec .runReset2 s = .next { s with cap := { s.cap with reset2Timer := none, overflow := .resetDisable } }) ∧
    (s.cap.overflow ≠ .resetDisableDeferred →
      exec .runReset2 s = .next { s with cap := { s.cap with
        reset2Timer := none, capFlag := false, capIe := true, cmpArmed := false, cmpFlag := false,
        overflow := .first } })

/-- 44_deferred_tasks R165: RUN_WEN calls `writer_enable()` whatever the state and the count, consumes its timer, and
changes nothing else. -/
def Obligations.RunWenReleasesTheTransmitter : Prop :=
  ∀ s : State, s.cap.wenTimer = some 0 →
    exec .runWen s = .next { s with cap := { s.cap with
      wenTimer := none, capLog := s.cap.capLog ++ [.writerEnable] } }

/-- 44_deferred_tasks R162 (5): in a reset state it makes no difference whether a pending interval task runs before the
first phase or not at all. -/
def Obligations.IntervalTaskOrderDoesNotMatterInReset : Prop :=
  ∀ s a b : State, s.cap.overflow = .reset ∨ s.cap.overflow = .resetQuiet ∨ s.cap.overflow = .resetDisable ∨
      s.cap.overflow = .resetDisableDeferred →
    s.cap.reset1Pending = true → exec .runIval s = .next a → exec .runReset1 a = .next b →
      exec .runReset1 s = .next b

/-- 44_deferred_tasks R166 (d), 70_reset_and_hazards R213 (e): in a reset state whose first phase is pending, every
operation but INIT, RD_ENABLE and RUN_RESET1 itself leaves a reset state with the first phase still pending and logs no
interval, so no interval is logged before the broadcast. -/
def Obligations.NoIntervalBeforeTheBroadcast : Prop :=
  ∀ (i : Instr) (s t : State), s.Inv → s.cap.reset1Pending = true → isResetState s.cap.overflow = true →
    exec i s = .next t → i ≠ .init → i ≠ .rdEnable → i ≠ .runReset1 →
      isResetState t.cap.overflow = true ∧ t.cap.reset1Pending = true ∧
      (t.cap.capLog = s.cap.capLog ∨ t.cap.capLog = s.cap.capLog ++ [.writerEnable])
end

