-- ==== Sys2Proof/Laws/Memory.lean ====
section
/-! SUPPORT. BUF as canonical data: reading back what the caller wrote, and the canonical form kept by every write. -/

namespace Sys2Proof.Machine

@[simp] theorem Memory.read_nil (a : Nat) : Memory.read [] a = unlistedByte := rfl

/-- Below the bound of its canonical form a memory lists nothing. -/
theorem Memory.read_below {lo a : Nat} {m : Memory} (h : Memory.wfFrom lo m = true) (ha : a < lo) :
    Memory.read m a = unlistedByte := by
  induction m generalizing lo with
  | nil => rfl
  | cons e m ih =>
    obtain ⟨b, w⟩ := e
    simp only [Memory.wfFrom, Bool.and_eq_true, decide_eq_true_eq] at h
    obtain ⟨⟨⟨hlo, -⟩, -⟩, hm⟩ := h
    rw [Memory.read, if_neg (by omega)]
    exact ih hm (by omega)

/-- The bound of a canonical form may be lowered. -/
theorem Memory.wfFrom_mono {lo lo' : Nat} {m : Memory} (h : Memory.wfFrom lo m = true) (hle : lo' ≤ lo) :
    Memory.wfFrom lo' m = true := by
  cases m with
  | nil => rfl
  | cons e m =>
    simp only [Memory.wfFrom, Bool.and_eq_true, decide_eq_true_eq] at h ⊢
    exact ⟨⟨⟨by omega, h.1.1.2⟩, h.1.2⟩, h.2⟩

/-- A write keeps the canonical form above its bound. -/
theorem Memory.wfFrom_write {lo a : Nat} {m : Memory} {v : Byte} (h : Memory.wfFrom lo m = true) (hlo : lo ≤ a)
    (ha : a < 2 ^ 32) : Memory.wfFrom lo (Memory.write m a v) = true := by
  induction m generalizing lo with
  | nil => rw [Memory.write]; split <;> simp_all [Memory.wfFrom]
  | cons e m ih =>
    obtain ⟨b, w⟩ := e
    have h' := h
    simp only [Memory.wfFrom, Bool.and_eq_true, decide_eq_true_eq] at h'
    obtain ⟨⟨⟨hb, hb32⟩, hw⟩, hm⟩ := h'
    rw [Memory.write]
    split
    · rename_i hab
      split
      · exact h
      · rename_i hv
        simp only [Memory.wfFrom, Bool.and_eq_true, decide_eq_true_eq]
        exact ⟨⟨⟨hlo, ha⟩, hv⟩, ⟨⟨Nat.succ_le_of_lt hab, hb32⟩, hw⟩, hm⟩
    · split
      · rename_i hab
        split
        · exact Memory.wfFrom_mono hm (by omega)
        · rename_i hv
          subst hab
          simp only [Memory.wfFrom, Bool.and_eq_true, decide_eq_true_eq]
          exact ⟨⟨⟨hb, hb32⟩, hv⟩, hm⟩
      · simp only [Memory.wfFrom, Bool.and_eq_true, decide_eq_true_eq]
        exact ⟨⟨⟨hb, hb32⟩, hw⟩, ih hm (by omega)⟩

/-- The caller's write keeps BUF in canonical form. -/
theorem Memory.wf_write {a : Nat} {m : Memory} {v : Byte} (h : Memory.wf m = true) (ha : a < 2 ^ 32) :
    Memory.wf (Memory.write m a v) = true :=
  Memory.wfFrom_write h (Nat.zero_le a) ha

/-- Reading after a write, above a bound of the canonical form. -/
theorem Memory.read_write_from {lo a : Nat} {m : Memory} (v : Byte) (h : Memory.wfFrom lo m = true) (b : Nat) :
    Memory.read (Memory.write m a v) b = if b = a then v else Memory.read m b := by
  induction m generalizing lo with
  | nil => rw [Memory.write]; split <;> simp_all [Memory.read]
  | cons e m ih =>
    obtain ⟨c, w⟩ := e
    simp only [Memory.wfFrom, Bool.and_eq_true, decide_eq_true_eq] at h
    obtain ⟨⟨⟨-, -⟩, -⟩, hm⟩ := h
    have below : ∀ x, x ≤ c → Memory.read m x = unlistedByte := fun x hx => Memory.read_below hm (by omega)
    rw [Memory.write]
    split
    · rename_i hac
      split
      · rename_i hv
        by_cases hba : b = a
        · subst hba
          simp [Memory.read, hv, Nat.ne_of_lt hac, below b (by omega)]
        · simp [hba]
      · simp [Memory.read]
    · split
      · rename_i hac
        subst hac
        split
        · rename_i hv
          by_cases hba : b = a
          · subst hba; simp [below b (Nat.le_refl b), hv]
          · simp [Memory.read, hba]
        · by_cases hba : b = a <;> simp [Memory.read, hba]
      · rename_i hac
        by_cases hbc : b = c
        · subst hbc
          have : b ≠ a := fun he => hac he.symm
          simp [Memory.read, this]
        · simp [Memory.read, hbc, ih hm]

end Sys2Proof.Machine
end

