-- ==== Sys2Proof/Laws/State.lean ====
section
/-! SUPPORT. One lemma per field per shared update of unit CAP, so that no later proof unfolds a record update. -/

namespace Sys2Proof.Machine

/-! ### armCmp -/

@[simp] theorem armCmp_overflow (p : Params) (t : Nat) (c : Cap) : (armCmp p t c).overflow = c.overflow := rfl
@[simp] theorem armCmp_lastEdgeTime (p : Params) (t : Nat) (c : Cap) : (armCmp p t c).lastEdgeTime = c.lastEdgeTime := rfl
@[simp] theorem armCmp_thisInterval (p : Params) (t : Nat) (c : Cap) : (armCmp p t c).thisInterval = c.thisInterval := rfl
@[simp] theorem armCmp_thisLevel (p : Params) (t : Nat) (c : Cap) : (armCmp p t c).thisLevel = c.thisLevel := rfl
@[simp] theorem armCmp_pulseCount (p : Params) (t : Nat) (c : Cap) : (armCmp p t c).pulseCount = c.pulseCount := rfl
@[simp] theorem armCmp_enableDelay (p : Params) (t : Nat) (c : Cap) : (armCmp p t c).enableDelay = c.enableDelay := rfl
@[simp] theorem armCmp_decoders (p : Params) (t : Nat) (c : Cap) : (armCmp p t c).decoders = c.decoders := rfl
@[simp] theorem armCmp_started (p : Params) (t : Nat) (c : Cap) : (armCmp p t c).started = c.started := rfl
@[simp] theorem armCmp_now (p : Params) (t : Nat) (c : Cap) : (armCmp p t c).now = c.now := rfl
@[simp] theorem armCmp_capTime (p : Params) (t : Nat) (c : Cap) : (armCmp p t c).capTime = c.capTime := rfl
@[simp] theorem armCmp_capLevel (p : Params) (t : Nat) (c : Cap) : (armCmp p t c).capLevel = c.capLevel := rfl
@[simp] theorem armCmp_capFlag (p : Params) (t : Nat) (c : Cap) : (armCmp p t c).capFlag = c.capFlag := rfl
@[simp] theorem armCmp_capIe (p : Params) (t : Nat) (c : Cap) : (armCmp p t c).capIe = c.capIe := rfl
@[simp] theorem armCmp_cmp (p : Params) (t : Nat) (c : Cap) : (armCmp p t c).cmp = some (ticksAdd p c.now t) := rfl
@[simp] theorem armCmp_cmpArmed (p : Params) (t : Nat) (c : Cap) : (armCmp p t c).cmpArmed = true := rfl
@[simp] theorem armCmp_cmpFlag (p : Params) (t : Nat) (c : Cap) : (armCmp p t c).cmpFlag = false := rfl
@[simp] theorem armCmp_ivalPending (p : Params) (t : Nat) (c : Cap) : (armCmp p t c).ivalPending = c.ivalPending := rfl
@[simp] theorem armCmp_reset1Pending (p : Params) (t : Nat) (c : Cap) : (armCmp p t c).reset1Pending = c.reset1Pending := rfl
@[simp] theorem armCmp_reset2Timer (p : Params) (t : Nat) (c : Cap) : (armCmp p t c).reset2Timer = c.reset2Timer := rfl
@[simp] theorem armCmp_wenTimer (p : Params) (t : Nat) (c : Cap) : (armCmp p t c).wenTimer = c.wenTimer := rfl
@[simp] theorem armCmp_fatalSeen (p : Params) (t : Nat) (c : Cap) : (armCmp p t c).fatalSeen = c.fatalSeen := rfl
@[simp] theorem armCmp_capLog (p : Params) (t : Nat) (c : Cap) : (armCmp p t c).capLog = c.capLog := rfl
@[simp] theorem armCmp_epoch (p : Params) (t : Nat) (c : Cap) : (armCmp p t c).epoch = c.epoch := rfl

/-! ### disarmCmp -/

@[simp] theorem disarmCmp_overflow (c : Cap) : (disarmCmp c).overflow = c.overflow := rfl
@[simp] theorem disarmCmp_lastEdgeTime (c : Cap) : (disarmCmp c).lastEdgeTime = c.lastEdgeTime := rfl
@[simp] theorem disarmCmp_thisInterval (c : Cap) : (disarmCmp c).thisInterval = c.thisInterval := rfl
@[simp] theorem disarmCmp_thisLevel (c : Cap) : (disarmCmp c).thisLevel = c.thisLevel := rfl
@[simp] theorem disarmCmp_pulseCount (c : Cap) : (disarmCmp c).pulseCount = c.pulseCount := rfl
@[simp] theorem disarmCmp_enableDelay (c : Cap) : (disarmCmp c).enableDelay = c.enableDelay := rfl
@[simp] theorem disarmCmp_decoders (c : Cap) : (disarmCmp c).decoders = c.decoders := rfl
@[simp] theorem disarmCmp_started (c : Cap) : (disarmCmp c).started = c.started := rfl
@[simp] theorem disarmCmp_now (c : Cap) : (disarmCmp c).now = c.now := rfl
@[simp] theorem disarmCmp_capTime (c : Cap) : (disarmCmp c).capTime = c.capTime := rfl
@[simp] theorem disarmCmp_capLevel (c : Cap) : (disarmCmp c).capLevel = c.capLevel := rfl
@[simp] theorem disarmCmp_capFlag (c : Cap) : (disarmCmp c).capFlag = c.capFlag := rfl
@[simp] theorem disarmCmp_capIe (c : Cap) : (disarmCmp c).capIe = c.capIe := rfl
@[simp] theorem disarmCmp_cmp (c : Cap) : (disarmCmp c).cmp = c.cmp := rfl
@[simp] theorem disarmCmp_cmpArmed (c : Cap) : (disarmCmp c).cmpArmed = false := rfl
@[simp] theorem disarmCmp_cmpFlag (c : Cap) : (disarmCmp c).cmpFlag = false := rfl
@[simp] theorem disarmCmp_ivalPending (c : Cap) : (disarmCmp c).ivalPending = c.ivalPending := rfl
@[simp] theorem disarmCmp_reset1Pending (c : Cap) : (disarmCmp c).reset1Pending = c.reset1Pending := rfl
@[simp] theorem disarmCmp_reset2Timer (c : Cap) : (disarmCmp c).reset2Timer = c.reset2Timer := rfl
@[simp] theorem disarmCmp_wenTimer (c : Cap) : (disarmCmp c).wenTimer = c.wenTimer := rfl
@[simp] theorem disarmCmp_fatalSeen (c : Cap) : (disarmCmp c).fatalSeen = c.fatalSeen := rfl
@[simp] theorem disarmCmp_capLog (c : Cap) : (disarmCmp c).capLog = c.capLog := rfl
@[simp] theorem disarmCmp_epoch (c : Cap) : (disarmCmp c).epoch = c.epoch := rfl

/-! ### enterReset -/

@[simp] theorem enterReset_overflow (o : Overflow) (c : Cap) : (enterReset o c).overflow = o := rfl
@[simp] theorem enterReset_lastEdgeTime (o : Overflow) (c : Cap) : (enterReset o c).lastEdgeTime = c.lastEdgeTime := rfl
@[simp] theorem enterReset_thisInterval (o : Overflow) (c : Cap) : (enterReset o c).thisInterval = c.thisInterval := rfl
@[simp] theorem enterReset_thisLevel (o : Overflow) (c : Cap) : (enterReset o c).thisLevel = c.thisLevel := rfl
@[simp] theorem enterReset_pulseCount (o : Overflow) (c : Cap) : (enterReset o c).pulseCount = c.pulseCount := rfl
@[simp] theorem enterReset_enableDelay (o : Overflow) (c : Cap) : (enterReset o c).enableDelay = c.enableDelay := rfl
@[simp] theorem enterReset_decoders (o : Overflow) (c : Cap) : (enterReset o c).decoders = c.decoders := rfl
@[simp] theorem enterReset_started (o : Overflow) (c : Cap) : (enterReset o c).started = c.started := rfl
@[simp] theorem enterReset_now (o : Overflow) (c : Cap) : (enterReset o c).now = c.now := rfl
@[simp] theorem enterReset_capTime (o : Overflow) (c : Cap) : (enterReset o c).capTime = c.capTime := rfl
@[simp] theorem enterReset_capLevel (o : Overflow) (c : Cap) : (enterReset o c).capLevel = c.capLevel := rfl
@[simp] theorem enterReset_capFlag (o : Overflow) (c : Cap) : (enterReset o c).capFlag = c.capFlag := rfl
@[simp] theorem enterReset_capIe (o : Overflow) (c : Cap) : (enterReset o c).capIe = false := rfl
@[simp] theorem enterReset_cmp (o : Overflow) (c : Cap) : (enterReset o c).cmp = c.cmp := rfl
@[simp] theorem enterReset_cmpArmed (o : Overflow) (c : Cap) : (enterReset o c).cmpArmed = false := rfl
@[simp] theorem enterReset_cmpFlag (o : Overflow) (c : Cap) : (enterReset o c).cmpFlag = false := rfl
@[simp] theorem enterReset_ivalPending (o : Overflow) (c : Cap) : (enterReset o c).ivalPending = c.ivalPending := rfl
@[simp] theorem enterReset_reset1Pending (o : Overflow) (c : Cap) : (enterReset o c).reset1Pending = true := rfl
@[simp] theorem enterReset_reset2Timer (o : Overflow) (c : Cap) : (enterReset o c).reset2Timer = c.reset2Timer := rfl
@[simp] theorem enterReset_wenTimer (o : Overflow) (c : Cap) : (enterReset o c).wenTimer = c.wenTimer := rfl
@[simp] theorem enterReset_fatalSeen (o : Overflow) (c : Cap) : (enterReset o c).fatalSeen = c.fatalSeen := rfl
@[simp] theorem enterReset_capLog (o : Overflow) (c : Cap) : (enterReset o c).capLog = c.capLog := rfl
@[simp] theorem enterReset_epoch (o : Overflow) (c : Cap) : (enterReset o c).epoch = c.epoch := rfl

/-! ### raiseFatal -/

@[simp] theorem raiseFatal_overflow (code : BitVec 8) (c : Cap) : (raiseFatal code c).overflow = c.overflow := rfl
@[simp] theorem raiseFatal_lastEdgeTime (code : BitVec 8) (c : Cap) : (raiseFatal code c).lastEdgeTime = c.lastEdgeTime := rfl
@[simp] theorem raiseFatal_thisInterval (code : BitVec 8) (c : Cap) : (raiseFatal code c).thisInterval = c.thisInterval := rfl
@[simp] theorem raiseFatal_thisLevel (code : BitVec 8) (c : Cap) : (raiseFatal code c).thisLevel = c.thisLevel := rfl
@[simp] theorem raiseFatal_pulseCount (code : BitVec 8) (c : Cap) : (raiseFatal code c).pulseCount = c.pulseCount := rfl
@[simp] theorem raiseFatal_enableDelay (code : BitVec 8) (c : Cap) : (raiseFatal code c).enableDelay = c.enableDelay := rfl
@[simp] theorem raiseFatal_decoders (code : BitVec 8) (c : Cap) : (raiseFatal code c).decoders = c.decoders := rfl
@[simp] theorem raiseFatal_started (code : BitVec 8) (c : Cap) : (raiseFatal code c).started = c.started := rfl
@[simp] theorem raiseFatal_now (code : BitVec 8) (c : Cap) : (raiseFatal code c).now = c.now := rfl
@[simp] theorem raiseFatal_capTime (code : BitVec 8) (c : Cap) : (raiseFatal code c).capTime = c.capTime := rfl
@[simp] theorem raiseFatal_capLevel (code : BitVec 8) (c : Cap) : (raiseFatal code c).capLevel = c.capLevel := rfl
@[simp] theorem raiseFatal_capFlag (code : BitVec 8) (c : Cap) : (raiseFatal code c).capFlag = c.capFlag := rfl
@[simp] theorem raiseFatal_capIe (code : BitVec 8) (c : Cap) : (raiseFatal code c).capIe = c.capIe := rfl
@[simp] theorem raiseFatal_cmp (code : BitVec 8) (c : Cap) : (raiseFatal code c).cmp = c.cmp := rfl
@[simp] theorem raiseFatal_cmpArmed (code : BitVec 8) (c : Cap) : (raiseFatal code c).cmpArmed = c.cmpArmed := rfl
@[simp] theorem raiseFatal_cmpFlag (code : BitVec 8) (c : Cap) : (raiseFatal code c).cmpFlag = c.cmpFlag := rfl
@[simp] theorem raiseFatal_ivalPending (code : BitVec 8) (c : Cap) : (raiseFatal code c).ivalPending = c.ivalPending := rfl
@[simp] theorem raiseFatal_reset1Pending (code : BitVec 8) (c : Cap) : (raiseFatal code c).reset1Pending = c.reset1Pending := rfl
@[simp] theorem raiseFatal_reset2Timer (code : BitVec 8) (c : Cap) : (raiseFatal code c).reset2Timer = c.reset2Timer := rfl
@[simp] theorem raiseFatal_wenTimer (code : BitVec 8) (c : Cap) : (raiseFatal code c).wenTimer = c.wenTimer := rfl
@[simp] theorem raiseFatal_fatalSeen (code : BitVec 8) (c : Cap) : (raiseFatal code c).fatalSeen = true := rfl
@[simp] theorem raiseFatal_capLog (code : BitVec 8) (c : Cap) : (raiseFatal code c).capLog = c.capLog ++ [.fatal code (overflowCode c.overflow)] := rfl
@[simp] theorem raiseFatal_epoch (code : BitVec 8) (c : Cap) : (raiseFatal code c).epoch = c.epoch := rfl

/-! ### countEdge -/

@[simp] theorem countEdge_overflow (p : Params) (c : Cap) : (countEdge p c).overflow = c.overflow := rfl
@[simp] theorem countEdge_lastEdgeTime (p : Params) (c : Cap) : (countEdge p c).lastEdgeTime = c.lastEdgeTime := rfl
@[simp] theorem countEdge_thisInterval (p : Params) (c : Cap) : (countEdge p c).thisInterval = c.thisInterval := rfl
@[simp] theorem countEdge_thisLevel (p : Params) (c : Cap) : (countEdge p c).thisLevel = c.thisLevel := rfl
@[simp] theorem countEdge_pulseCount (p : Params) (c : Cap) : (countEdge p c).pulseCount = countUp c.pulseCount := rfl
@[simp] theorem countEdge_enableDelay (p : Params) (c : Cap) : (countEdge p c).enableDelay = c.enableDelay := rfl
@[simp] theorem countEdge_decoders (p : Params) (c : Cap) : (countEdge p c).decoders = c.decoders := rfl
@[simp] theorem countEdge_started (p : Params) (c : Cap) : (countEdge p c).started = c.started := rfl
@[simp] theorem countEdge_now (p : Params) (c : Cap) : (countEdge p c).now = c.now := rfl
@[simp] theorem countEdge_capTime (p : Params) (c : Cap) : (countEdge p c).capTime = c.capTime := rfl
@[simp] theorem countEdge_capLevel (p : Params) (c : Cap) : (countEdge p c).capLevel = c.capLevel := rfl
@[simp] theorem countEdge_capFlag (p : Params) (c : Cap) : (countEdge p c).capFlag = c.capFlag := rfl
@[simp] theorem countEdge_capIe (p : Params) (c : Cap) : (countEdge p c).capIe = c.capIe := rfl
@[simp] theorem countEdge_cmp (p : Params) (c : Cap) : (countEdge p c).cmp = c.cmp := rfl
@[simp] theorem countEdge_cmpArmed (p : Params) (c : Cap) : (countEdge p c).cmpArmed = c.cmpArmed := rfl
@[simp] theorem countEdge_cmpFlag (p : Params) (c : Cap) : (countEdge p c).cmpFlag = c.cmpFlag := rfl
@[simp] theorem countEdge_ivalPending (p : Params) (c : Cap) : (countEdge p c).ivalPending = c.ivalPending := rfl
@[simp] theorem countEdge_reset1Pending (p : Params) (c : Cap) : (countEdge p c).reset1Pending = c.reset1Pending := rfl
@[simp] theorem countEdge_reset2Timer (p : Params) (c : Cap) : (countEdge p c).reset2Timer = c.reset2Timer := rfl
@[simp] theorem countEdge_wenTimer (p : Params) (c : Cap) : (countEdge p c).wenTimer = c.wenTimer := rfl
@[simp] theorem countEdge_fatalSeen (p : Params) (c : Cap) : (countEdge p c).fatalSeen = c.fatalSeen := rfl
@[simp] theorem countEdge_capLog (p : Params) (c : Cap) : (countEdge p c).capLog = c.capLog ++ if hitsThreshold p c.pulseCount then [.writerDisable] else [] := rfl
@[simp] theorem countEdge_epoch (p : Params) (c : Cap) : (countEdge p c).epoch = c.epoch := rfl

/-! ### dispatchInterval -/

@[simp] theorem dispatchInterval_overflow (d : Nat) (l : Bool) (c : Cap) : (dispatchInterval d l c).overflow = c.overflow := rfl
@[simp] theorem dispatchInterval_lastEdgeTime (d : Nat) (l : Bool) (c : Cap) : (dispatchInterval d l c).lastEdgeTime = c.lastEdgeTime := rfl
@[simp] theorem dispatchInterval_thisInterval (d : Nat) (l : Bool) (c : Cap) : (dispatchInterval d l c).thisInterval = c.thisInterval := rfl
@[simp] theorem dispatchInterval_thisLevel (d : Nat) (l : Bool) (c : Cap) : (dispatchInterval d l c).thisLevel = c.thisLevel := rfl
@[simp] theorem dispatchInterval_pulseCount (d : Nat) (l : Bool) (c : Cap) : (dispatchInterval d l c).pulseCount = c.pulseCount := rfl
@[simp] theorem dispatchInterval_enableDelay (d : Nat) (l : Bool) (c : Cap) : (dispatchInterval d l c).enableDelay = c.enableDelay := rfl
@[simp] theorem dispatchInterval_decoders (d : Nat) (l : Bool) (c : Cap) : (dispatchInterval d l c).decoders = c.decoders := rfl
@[simp] theorem dispatchInterval_started (d : Nat) (l : Bool) (c : Cap) : (dispatchInterval d l c).started = c.started := rfl
@[simp] theorem dispatchInterval_now (d : Nat) (l : Bool) (c : Cap) : (dispatchInterval d l c).now = c.now := rfl
@[simp] theorem dispatchInterval_capTime (d : Nat) (l : Bool) (c : Cap) : (dispatchInterval d l c).capTime = c.capTime := rfl
@[simp] theorem dispatchInterval_capLevel (d : Nat) (l : Bool) (c : Cap) : (dispatchInterval d l c).capLevel = c.capLevel := rfl
@[simp] theorem dispatchInterval_capFlag (d : Nat) (l : Bool) (c : Cap) : (dispatchInterval d l c).capFlag = c.capFlag := rfl
@[simp] theorem dispatchInterval_capIe (d : Nat) (l : Bool) (c : Cap) : (dispatchInterval d l c).capIe = c.capIe := rfl
@[simp] theorem dispatchInterval_cmp (d : Nat) (l : Bool) (c : Cap) : (dispatchInterval d l c).cmp = c.cmp := rfl
@[simp] theorem dispatchInterval_cmpArmed (d : Nat) (l : Bool) (c : Cap) : (dispatchInterval d l c).cmpArmed = c.cmpArmed := rfl
@[simp] theorem dispatchInterval_cmpFlag (d : Nat) (l : Bool) (c : Cap) : (dispatchInterval d l c).cmpFlag = c.cmpFlag := rfl
@[simp] theorem dispatchInterval_ivalPending (d : Nat) (l : Bool) (c : Cap) : (dispatchInterval d l c).ivalPending = c.ivalPending := rfl
@[simp] theorem dispatchInterval_reset1Pending (d : Nat) (l : Bool) (c : Cap) : (dispatchInterval d l c).reset1Pending = c.reset1Pending := rfl
@[simp] theorem dispatchInterval_reset2Timer (d : Nat) (l : Bool) (c : Cap) : (dispatchInterval d l c).reset2Timer = c.reset2Timer := rfl
@[simp] theorem dispatchInterval_wenTimer (d : Nat) (l : Bool) (c : Cap) : (dispatchInterval d l c).wenTimer = c.wenTimer := rfl
@[simp] theorem dispatchInterval_fatalSeen (d : Nat) (l : Bool) (c : Cap) : (dispatchInterval d l c).fatalSeen = c.fatalSeen := rfl
@[simp] theorem dispatchInterval_capLog (d : Nat) (l : Bool) (c : Cap) : (dispatchInterval d l c).capLog = c.capLog ++ c.decoders.map fun dec => .onInterval dec d l := rfl
@[simp] theorem dispatchInterval_epoch (d : Nat) (l : Bool) (c : Cap) : (dispatchInterval d l c).epoch = c.epoch := rfl

/-! ### broadcastReset -/

@[simp] theorem broadcastReset_overflow (c : Cap) : (broadcastReset c).overflow = c.overflow := rfl
@[simp] theorem broadcastReset_lastEdgeTime (c : Cap) : (broadcastReset c).lastEdgeTime = c.lastEdgeTime := rfl
@[simp] theorem broadcastReset_thisInterval (c : Cap) : (broadcastReset c).thisInterval = c.thisInterval := rfl
@[simp] theorem broadcastReset_thisLevel (c : Cap) : (broadcastReset c).thisLevel = c.thisLevel := rfl
@[simp] theorem broadcastReset_pulseCount (c : Cap) : (broadcastReset c).pulseCount = c.pulseCount := rfl
@[simp] theorem broadcastReset_enableDelay (c : Cap) : (broadcastReset c).enableDelay = c.enableDelay := rfl
@[simp] theorem broadcastReset_decoders (c : Cap) : (broadcastReset c).decoders = c.decoders := rfl
@[simp] theorem broadcastReset_started (c : Cap) : (broadcastReset c).started = c.started := rfl
@[simp] theorem broadcastReset_now (c : Cap) : (broadcastReset c).now = c.now := rfl
@[simp] theorem broadcastReset_capTime (c : Cap) : (broadcastReset c).capTime = c.capTime := rfl
@[simp] theorem broadcastReset_capLevel (c : Cap) : (broadcastReset c).capLevel = c.capLevel := rfl
@[simp] theorem broadcastReset_capFlag (c : Cap) : (broadcastReset c).capFlag = c.capFlag := rfl
@[simp] theorem broadcastReset_capIe (c : Cap) : (broadcastReset c).capIe = c.capIe := rfl
@[simp] theorem broadcastReset_cmp (c : Cap) : (broadcastReset c).cmp = c.cmp := rfl
@[simp] theorem broadcastReset_cmpArmed (c : Cap) : (broadcastReset c).cmpArmed = c.cmpArmed := rfl
@[simp] theorem broadcastReset_cmpFlag (c : Cap) : (broadcastReset c).cmpFlag = c.cmpFlag := rfl
@[simp] theorem broadcastReset_ivalPending (c : Cap) : (broadcastReset c).ivalPending = c.ivalPending := rfl
@[simp] theorem broadcastReset_reset1Pending (c : Cap) : (broadcastReset c).reset1Pending = c.reset1Pending := rfl
@[simp] theorem broadcastReset_reset2Timer (c : Cap) : (broadcastReset c).reset2Timer = c.reset2Timer := rfl
@[simp] theorem broadcastReset_wenTimer (c : Cap) : (broadcastReset c).wenTimer = c.wenTimer := rfl
@[simp] theorem broadcastReset_fatalSeen (c : Cap) : (broadcastReset c).fatalSeen = c.fatalSeen := rfl
@[simp] theorem broadcastReset_capLog (c : Cap) : (broadcastReset c).capLog = c.capLog ++ c.decoders.map .onReset := rfl
@[simp] theorem broadcastReset_epoch (c : Cap) : (broadcastReset c).epoch = c.epoch := rfl

/-! ### tickOnce -/

@[simp] theorem tickOnce_overflow (p : Params) (c : Cap) : (tickOnce p c).overflow = c.overflow := rfl
@[simp] theorem tickOnce_lastEdgeTime (p : Params) (c : Cap) : (tickOnce p c).lastEdgeTime = c.lastEdgeTime := rfl
@[simp] theorem tickOnce_thisInterval (p : Params) (c : Cap) : (tickOnce p c).thisInterval = c.thisInterval := rfl
@[simp] theorem tickOnce_thisLevel (p : Params) (c : Cap) : (tickOnce p c).thisLevel = c.thisLevel := rfl
@[simp] theorem tickOnce_pulseCount (p : Params) (c : Cap) : (tickOnce p c).pulseCount = c.pulseCount := rfl
@[simp] theorem tickOnce_enableDelay (p : Params) (c : Cap) : (tickOnce p c).enableDelay = c.enableDelay := rfl
@[simp] theorem tickOnce_decoders (p : Params) (c : Cap) : (tickOnce p c).decoders = c.decoders := rfl
@[simp] theorem tickOnce_started (p : Params) (c : Cap) : (tickOnce p c).started = c.started := rfl
@[simp] theorem tickOnce_now (p : Params) (c : Cap) : (tickOnce p c).now = ticksAdd p c.now 1 := rfl
@[simp] theorem tickOnce_capTime (p : Params) (c : Cap) : (tickOnce p c).capTime = c.capTime := rfl
@[simp] theorem tickOnce_capLevel (p : Params) (c : Cap) : (tickOnce p c).capLevel = c.capLevel := rfl
@[simp] theorem tickOnce_capFlag (p : Params) (c : Cap) : (tickOnce p c).capFlag = c.capFlag := rfl
@[simp] theorem tickOnce_capIe (p : Params) (c : Cap) : (tickOnce p c).capIe = c.capIe := rfl
@[simp] theorem tickOnce_cmp (p : Params) (c : Cap) : (tickOnce p c).cmp = c.cmp := rfl
@[simp] theorem tickOnce_cmpArmed (p : Params) (c : Cap) : (tickOnce p c).cmpArmed = c.cmpArmed := rfl
@[simp] theorem tickOnce_cmpFlag (p : Params) (c : Cap) : (tickOnce p c).cmpFlag = (c.cmpFlag || (c.cmpArmed && decide (ticksAdd p c.now 1 = readCmp p c))) := rfl
@[simp] theorem tickOnce_ivalPending (p : Params) (c : Cap) : (tickOnce p c).ivalPending = c.ivalPending := rfl
@[simp] theorem tickOnce_reset1Pending (p : Params) (c : Cap) : (tickOnce p c).reset1Pending = c.reset1Pending := rfl
@[simp] theorem tickOnce_reset2Timer (p : Params) (c : Cap) : (tickOnce p c).reset2Timer = countdownOnce c.reset2Timer := rfl
@[simp] theorem tickOnce_wenTimer (p : Params) (c : Cap) : (tickOnce p c).wenTimer = countdownOnce c.wenTimer := rfl
@[simp] theorem tickOnce_fatalSeen (p : Params) (c : Cap) : (tickOnce p c).fatalSeen = c.fatalSeen := rfl
@[simp] theorem tickOnce_capLog (p : Params) (c : Cap) : (tickOnce p c).capLog = c.capLog := rfl
@[simp] theorem tickOnce_epoch (p : Params) (c : Cap) : (tickOnce p c).epoch = c.epoch := rfl

/-! ### doReset2: what it leaves alone in both its arms -/

@[simp] theorem doReset2_lastEdgeTime (c : Cap) : (doReset2 c).lastEdgeTime = c.lastEdgeTime := by
  unfold doReset2; split <;> rfl
@[simp] theorem doReset2_thisInterval (c : Cap) : (doReset2 c).thisInterval = c.thisInterval := by
  unfold doReset2; split <;> rfl
@[simp] theorem doReset2_thisLevel (c : Cap) : (doReset2 c).thisLevel = c.thisLevel := by
  unfold doReset2; split <;> rfl
@[simp] theorem doReset2_pulseCount (c : Cap) : (doReset2 c).pulseCount = c.pulseCount := by
  unfold doReset2; split <;> rfl
@[simp] theorem doReset2_enableDelay (c : Cap) : (doReset2 c).enableDelay = c.enableDelay := by
  unfold doReset2; split <;> rfl
@[simp] theorem doReset2_decoders (c : Cap) : (doReset2 c).decoders = c.decoders := by
  unfold doReset2; split <;> rfl
@[simp] theorem doReset2_started (c : Cap) : (doReset2 c).started = c.started := by
  unfold doReset2; split <;> rfl
@[simp] theorem doReset2_now (c : Cap) : (doReset2 c).now = c.now := by
  unfold doReset2; split <;> rfl
@[simp] theorem doReset2_capTime (c : Cap) : (doReset2 c).capTime = c.capTime := by
  unfold doReset2; split <;> rfl
@[simp] theorem doReset2_capLevel (c : Cap) : (doReset2 c).capLevel = c.capLevel := by
  unfold doReset2; split <;> rfl
@[simp] theorem doReset2_cmp (c : Cap) : (doReset2 c).cmp = c.cmp := by
  unfold doReset2; split <;> rfl
@[simp] theorem doReset2_ivalPending (c : Cap) : (doReset2 c).ivalPending = c.ivalPending := by
  unfold doReset2; split <;> rfl
@[simp] theorem doReset2_reset1Pending (c : Cap) : (doReset2 c).reset1Pending = c.reset1Pending := by
  unfold doReset2; split <;> rfl
@[simp] theorem doReset2_wenTimer (c : Cap) : (doReset2 c).wenTimer = c.wenTimer := by
  unfold doReset2; split <;> rfl
@[simp] theorem doReset2_fatalSeen (c : Cap) : (doReset2 c).fatalSeen = c.fatalSeen := by
  unfold doReset2; split <;> rfl
@[simp] theorem doReset2_capLog (c : Cap) : (doReset2 c).capLog = c.capLog := by
  unfold doReset2; split <;> rfl
@[simp] theorem doReset2_epoch (c : Cap) : (doReset2 c).epoch = c.epoch := by
  unfold doReset2; split <;> rfl
@[simp] theorem doReset2_reset2Timer (c : Cap) : (doReset2 c).reset2Timer = none := by
  unfold doReset2; split <;> rfl

/-! ### tickBy: what any number of ticks leaves alone -/

@[simp] theorem tickBy_overflow (p : Params) (n : Nat) (c : Cap) : (tickBy p n c).overflow = c.overflow := by
  unfold tickBy; split <;> rfl
@[simp] theorem tickBy_lastEdgeTime (p : Params) (n : Nat) (c : Cap) : (tickBy p n c).lastEdgeTime = c.lastEdgeTime := by
  unfold tickBy; split <;> rfl
@[simp] theorem tickBy_thisInterval (p : Params) (n : Nat) (c : Cap) : (tickBy p n c).thisInterval = c.thisInterval := by
  unfold tickBy; split <;> rfl
@[simp] theorem tickBy_thisLevel (p : Params) (n : Nat) (c : Cap) : (tickBy p n c).thisLevel = c.thisLevel := by
  unfold tickBy; split <;> rfl
@[simp] theorem tickBy_pulseCount (p : Params) (n : Nat) (c : Cap) : (tickBy p n c).pulseCount = c.pulseCount := by
  unfold tickBy; split <;> rfl
@[simp] theorem tickBy_enableDelay (p : Params) (n : Nat) (c : Cap) : (tickBy p n c).enableDelay = c.enableDelay := by
  unfold tickBy; split <;> rfl
@[simp] theorem tickBy_decoders (p : Params) (n : Nat) (c : Cap) : (tickBy p n c).decoders = c.decoders := by
  unfold tickBy; split <;> rfl
@[simp] theorem tickBy_started (p : Params) (n : Nat) (c : Cap) : (tickBy p n c).started = c.started := by
  unfold tickBy; split <;> rfl
@[simp] theorem tickBy_capTime (p : Params) (n : Nat) (c : Cap) : (tickBy p n c).capTime = c.capTime := by
  unfold tickBy; split <;> rfl
@[simp] theorem tickBy_capLevel (p : Params) (n : Nat) (c : Cap) : (tickBy p n c).capLevel = c.capLevel := by
  unfold tickBy; split <;> rfl
@[simp] theorem tickBy_capFlag (p : Params) (n : Nat) (c : Cap) : (tickBy p n c).capFlag = c.capFlag := by
  unfold tickBy; split <;> rfl
@[simp] theorem tickBy_capIe (p : Params) (n : Nat) (c : Cap) : (tickBy p n c).capIe = c.capIe := by
  unfold tickBy; split <;> rfl
@[simp] theorem tickBy_cmp (p : Params) (n : Nat) (c : Cap) : (tickBy p n c).cmp = c.cmp := by
  unfold tickBy; split <;> rfl
@[simp] theorem tickBy_cmpArmed (p : Params) (n : Nat) (c : Cap) : (tickBy p n c).cmpArmed = c.cmpArmed := by
  unfold tickBy; split <;> rfl
@[simp] theorem tickBy_ivalPending (p : Params) (n : Nat) (c : Cap) : (tickBy p n c).ivalPending = c.ivalPending := by
  unfold tickBy; split <;> rfl
@[simp] theorem tickBy_reset1Pending (p : Params) (n : Nat) (c : Cap) : (tickBy p n c).reset1Pending = c.reset1Pending := by
  unfold tickBy; split <;> rfl
@[simp] theorem tickBy_fatalSeen (p : Params) (n : Nat) (c : Cap) : (tickBy p n c).fatalSeen = c.fatalSeen := by
  unfold tickBy; split <;> rfl
@[simp] theorem tickBy_capLog (p : Params) (n : Nat) (c : Cap) : (tickBy p n c).capLog = c.capLog := by
  unfold tickBy; split <;> rfl
@[simp] theorem tickBy_epoch (p : Params) (n : Nat) (c : Cap) : (tickBy p n c).epoch = c.epoch := by
  unfold tickBy; split <;> rfl

end Sys2Proof.Machine
end

