-- ==== Sys2Proof/Laws/Ops.lean ====
section
/-! SUPPORT. What the shared operations can do, said once: bounds of the timer arithmetic and of every register read,
the second reset phase by case, and the three decisions of ENCODE. -/

namespace Sys2Proof.Machine

theorem ticksAdd_lt (p : Params) (t n : Nat) : ticksAdd p t n < 2 ^ p.tw := Nat.mod_lt _ (Nat.two_pow_pos _)

theorem ticksSub_lt (p : Params) (t u : Nat) : ticksSub p t u < 2 ^ p.tw := Nat.mod_lt _ (Nat.two_pow_pos _)

theorem rate_lt (p : Params) (code : BitVec 8) : rate p code < 2 ^ p.dw := Nat.mod_lt _ (Nat.two_pow_pos _)

/-- An interval is the difference of its two times modulo `2^TW` (42_capture_events R135). -/
theorem ticksSub_eq_emod {p : Params} {t u : Nat} (hu : u < 2 ^ p.tw) :
    (ticksSub p t u : Int) = ((t : Int) - u) % (2 ^ p.tw : Nat) := by
  unfold ticksSub
  rw [Nat.mod_eq_of_lt hu, Int.natCast_emod, Nat.cast_add, Nat.cast_sub hu.le]
  rw [show (t : Int) + ((2 ^ p.tw : Nat) - (u : Int)) = (t - u) + (2 ^ p.tw : Nat) by ring, Int.add_emod_right]

/-- The interval between two times less than a turn apart is exact. -/
theorem ticksSub_of_le {p : Params} {t u : Nat} (hut : u ≤ t) (ht : t < 2 ^ p.tw) : ticksSub p t u = t - u := by
  unfold ticksSub
  generalize 2 ^ p.tw = m at *
  rw [Nat.mod_eq_of_lt (by omega : u < m), show t + (m - u) = (t - u) + m by omega, Nat.add_mod_right,
    Nat.mod_eq_of_lt (by omega)]

theorem readCmp_lt {p : Params} {c : Cap} (h : BoundedBy (2 ^ p.tw) c.cmp) : readCmp p c < 2 ^ p.tw := by
  unfold readCmp
  cases hc : c.cmp with
  | none => exact Nat.mod_lt _ (Nat.two_pow_pos _)
  | some x => exact h x hc

theorem readCapTime_lt {p : Params} {c : Cap} (h : BoundedBy (2 ^ p.tw) c.capTime) : readCapTime p c < 2 ^ p.tw := by
  unfold readCapTime
  cases hc : c.capTime with
  | none => exact Nat.mod_lt _ (Nat.two_pow_pos _)
  | some x => exact h x hc

/-- A register that has been written reads as what was written. -/
theorem readCapTime_some {p : Params} {c : Cap} {t : Nat} (h : c.capTime = some t) : readCapTime p c = t := by
  simp [readCapTime, h]

theorem readCapLevel_some {c : Cap} {l : Bool} (h : c.capLevel = some l) : readCapLevel c = l := by
  simp [readCapLevel, h]

theorem readLastEdgeTime_some {p : Params} {c : Cap} {t : Nat} (h : c.lastEdgeTime = some t) :
    readLastEdgeTime p c = t := by
  simp [readLastEdgeTime, h]

theorem readThisInterval_some {p : Params} {c : Cap} {d : Nat} (h : c.thisInterval = some d) :
    readThisInterval p c = d := by
  simp [readThisInterval, h]

theorem readThisLevel_some {c : Cap} {l : Bool} (h : c.thisLevel = some l) : readThisLevel c = l := by
  simp [readThisLevel, h]

theorem readCmp_some {p : Params} {c : Cap} {t : Nat} (h : c.cmp = some t) : readCmp p c = t := by
  simp [readCmp, h]

/-- The second phase finalises a remembered disable. -/
theorem doReset2_deferred {c : Cap} (h : c.overflow = .resetDisableDeferred) :
    doReset2 c = { c with reset2Timer := none, overflow := .resetDisable } := by
  unfold doReset2; rw [h]

/-- The second phase re-arms capture in every other state. -/
theorem doReset2_rearm {c : Cap} (h : c.overflow ≠ .resetDisableDeferred) :
    doReset2 c = { c with
      reset2Timer := none, capFlag := false, capIe := true, cmpArmed := false, cmpFlag := false, overflow := .first } := by
  unfold doReset2
  split
  · contradiction
  all_goals rfl

@[simp] theorem tickBy_zero (p : Params) (c : Cap) : tickBy p 0 c = c := rfl

theorem tickBy_succ (p : Params) (m : Nat) (c : Cap) : tickBy p (m + 1) c = { c with
    now := ticksAdd p c.now (m + 1)
    cmpFlag := c.cmpFlag || compareHit p (m + 1) c
    reset2Timer := countdown (m + 1) c.reset2Timer
    wenTimer := countdown (m + 1) c.wenTimer } := rfl

/-- The Channel Context reads as `k` exactly when every register holds `k`'s value. -/
theorem config_eq_some_iff {e : Enc} {k : EncConfig} :
    e.config = some k ↔
      e.times = ⟨some k.zeroMark, some k.zeroSpace, some k.oneMark, some k.oneSpace, some k.idle⟩ ∧
      e.syncCount = some k.sync ∧ e.bitsPerSymbol = some k.width ∧ e.bitOrder = some k.order ∧
      e.parityMode = some k.parity ∧ e.sinkParam = some k.param := by
  obtain ⟨⟨t0, t1, t2, t3, t4⟩, sc, bw, bo, pm, sp, _, _, _, _, _, _, _, _, _⟩ := e
  obtain ⟨k0, k1, k2, k3, k4, ks, kw, ko, kp, kq⟩ := k
  simp only [Enc.config, Option.bind_eq_bind, Option.pure_def, Option.bind_eq_some_iff, Option.some.injEq,
    EncConfig.mk.injEq, TimingTable.mk.injEq]
  constructor
  · rintro ⟨_, rfl, _, rfl, _, rfl, _, rfl, _, rfl, _, rfl, _, rfl, _, rfl, _, rfl, _, rfl, h⟩
    obtain ⟨rfl, rfl, rfl, rfl, rfl, rfl, rfl, rfl, rfl, rfl⟩ := h
    simp
  · rintro ⟨⟨rfl, rfl, rfl, rfl, rfl⟩, rfl, rfl, rfl, rfl, rfl⟩
    simp

/-- ENCODE goes ahead exactly when no condition of 41_encoder R119 holds. -/
theorem encodeCheck_ok_iff {base : Addr} {len : BitVec 24} {e : Enc} {k : EncConfig} :
    encodeCheck base len e = .ok k ↔
      e.phase = .idle ∧ e.config = some k ∧ widthLegal k.width = true ∧ bufferInRange base len = true := by
  unfold encodeCheck encodeBusy
  by_cases hp : e.phase = .idle
  · cases hc : e.config with
    | none => simp [hp]
    | some k' =>
      by_cases hw : widthLegal k'.width = true <;> by_cases hb : bufferInRange base len = true <;>
        simp only [hp, hw, hb, ne_eq, not_true, decide_false, Bool.false_eq_true, if_true, if_false, true_and, and_true,
          and_false, Option.some.injEq, Except.ok.injEq, reduceCtorEq, iff_self_and, false_iff, not_and]
      · rintro rfl; exact hw
      all_goals rintro rfl h; exact hw h
  · simp [hp]

/-- The edge count saturates at its largest value (42_capture_events R134). -/
theorem countUp_eq (n : BitVec 8) : countUp n = if n = 255 then 255 else n + 1 := by
  revert n; decide

/-- `writer_disable()` is called exactly when a step of the count lands on the threshold (42_capture_events R134). -/
theorem hitsThreshold_iff {p : Params} {n : BitVec 8} :
    hitsThreshold p n = true ↔ n ≠ 255 ∧ n + 1 = p.pulseThreshold := by
  have h : n.toNat < 255 ↔ n ≠ 255 := by revert n; decide
  simp only [hitsThreshold, decide_eq_true_eq, h]

/-- The sequencer's read of a byte goes ahead exactly when the byte exists. -/
theorem beginByte_ok {m : Memory} {e e' : Enc} : beginByte m e = .ok e' ↔
    e.base.toNat + e.byteIdx.toNat < 2 ^ 32 ∧
      e' = { e with byte := Memory.read m (e.base.toNat + e.byteIdx.toNat), bitCnt := 0, par := false, phase := .data } := by
  unfold beginByte
  by_cases h : e.base.toNat + e.byteIdx.toNat < 2 ^ 32 <;>
    simp only [h, if_true, if_false, Except.ok.injEq, reduceCtorEq, true_and, false_and, eq_comm]

/-- The end of a byte: the end marker after the last one, else the next one's read. -/
theorem nextByte_ok {m : Memory} {e e' : Enc} : nextByte m e = .ok e' ↔
    (e.byteIdx + 1 = e.len ∧ e' = { e with byteIdx := e.byteIdx + 1, phase := .endMark }) ∨
    (e.byteIdx + 1 ≠ e.len ∧ beginByte m { e with byteIdx := e.byteIdx + 1 } = .ok e') := by
  unfold nextByte
  by_cases h : e.byteIdx + 1 = e.len
  · simp only [h, if_true, Except.ok.injEq, true_and, ne_eq, not_true, false_and, or_false, eq_comm]
  · simp only [h, if_false, false_and, ne_eq, not_false_eq_true, true_and, false_or]

/-- The end of a byte leaves the Channel Context, the buffer given and `sink_log`. -/
theorem nextByte_keeps {m : Memory} {e e' : Enc} (h : nextByte m e = .ok e') :
    e'.config = e.config ∧ e'.times = e.times ∧ e'.syncCount = e.syncCount ∧ e'.bitsPerSymbol = e.bitsPerSymbol ∧
    e'.bitOrder = e.bitOrder ∧ e'.parityMode = e.parityMode ∧ e'.sinkParam = e.sinkParam ∧ e'.base = e.base ∧
    e'.len = e.len ∧ e'.sinkLog = e.sinkLog := by
  obtain ⟨-, rfl⟩ | ⟨-, h⟩ := nextByte_ok.mp h
  · exact ⟨rfl, rfl, rfl, rfl, rfl, rfl, rfl, rfl, rfl, rfl⟩
  · obtain ⟨-, rfl⟩ := beginByte_ok.mp h
    exact ⟨rfl, rfl, rfl, rfl, rfl, rfl, rfl, rfl, rfl, rfl⟩

/-- What a turn of the sequencer appends to `sink_log`: one call in each phase but E_IDLE, none where there is no parity
pulse to send (41_encoder R120). -/
def turnCalls (k : EncConfig) (e : Enc) : List SinkCall :=
  match e.phase with
  | .idle => []
  | .sync | .endMark => [pulse k false]
  | .start => [pulse k true]
  | .data => [pulse k (dataBit k e.byte e.bitCnt.toNat)]
  | .parity => (parityPulse k.parity e.par).toList.map (pulse k)
  | .idleMark => [idleMarker k]

/-- What a turn of the sequencer leaves and what it appends: the Channel Context and the buffer given stay, and its calls
go to the end of `sink_log`. -/
theorem sequence_keeps {k : EncConfig} {m : Memory} {e e' : Enc} (h : sequence k m e = .ok e') :
    e'.config = e.config ∧ e'.times = e.times ∧ e'.syncCount = e.syncCount ∧ e'.bitsPerSymbol = e.bitsPerSymbol ∧
    e'.bitOrder = e.bitOrder ∧ e'.parityMode = e.parityMode ∧ e'.sinkParam = e.sinkParam ∧ e'.base = e.base ∧
    e'.len = e.len ∧ e'.sinkLog = e.sinkLog ++ turnCalls k e := by
  unfold sequence at h
  unfold turnCalls
  cases hp : e.phase <;> simp only [hp] at h ⊢
  case idle => cases h; simp
  case sync => cases h; split <;> exact ⟨rfl, rfl, rfl, rfl, rfl, rfl, rfl, rfl, rfl, rfl⟩
  case start =>
    split at h
    · cases h; exact ⟨rfl, rfl, rfl, rfl, rfl, rfl, rfl, rfl, rfl, rfl⟩
    · obtain ⟨-, rfl⟩ := beginByte_ok.mp h
      exact ⟨rfl, rfl, rfl, rfl, rfl, rfl, rfl, rfl, rfl, rfl⟩
  case data =>
    split at h
    · split at h
      · exact nextByte_keeps h
      · cases h; exact ⟨rfl, rfl, rfl, rfl, rfl, rfl, rfl, rfl, rfl, rfl⟩
    · cases h; exact ⟨rfl, rfl, rfl, rfl, rfl, rfl, rfl, rfl, rfl, rfl⟩
  case parity => exact nextByte_keeps h
  case endMark => cases h; exact ⟨rfl, rfl, rfl, rfl, rfl, rfl, rfl, rfl, rfl, rfl⟩
  case idleMark => cases h; exact ⟨rfl, rfl, rfl, rfl, rfl, rfl, rfl, rfl, rfl, rfl⟩

end Sys2Proof.Machine
end

