-- ==== Sys2Proof/Laws/PerInstr.lean ====
section
/-! SUPPORT. A statement made once per operation: the word the encoder writes lies in that operation's row of the opcode
table, by the row's match and mask (spec/30_encoding.md R83). -/

namespace Sys2Proof.Laws.RowMatch

/-- The row of 30_encoding R83: match and mask. -/
def row : Instr → OpWord × OpWord
  | .init => (0x0100000000000000, 0xFFFFFFFFFFFFFFFF)
  | .decRegister _ => (0x0200000000000000, 0xFFFFFFFF00000000)
  | .ttSetup _ _ => (0x1000000000000000, 0xFFFFFF0000000000)
  | .cfgFormat _ _ _ => (0x1100000000000000, 0xFFFFFF00FFFFFFFF)
  | .cfgSink _ => (0x1200000000000000, 0xFFFFFFFF00000000)
  | .encode _ _ => (0x1800000000000000, 0xFF00000000000000)
  | .lineEdge _ => (0x2000000000000000, 0xFFFFFFFEFFFFFFFF)
  | .tick _ => (0x2100000000000000, 0xFFFFFFFF00000000)
  | .edgeIsr => (0x2800000000000000, 0xFFFFFFFFFFFFFFFF)
  | .timeoutIsr => (0x2900000000000000, 0xFFFFFFFFFFFFFFFF)
  | .rdDisable => (0x3000000000000000, 0xFFFFFFFFFFFFFFFF)
  | .rdEnable => (0x3100000000000000, 0xFFFFFFFFFFFFFFFF)
  | .frameQueued => (0x3200000000000000, 0xFFFFFFFFFFFFFFFF)
  | .runIval => (0x3800000000000000, 0xFFFFFFFFFFFFFFFF)
  | .runReset1 => (0x3900000000000000, 0xFFFFFFFFFFFFFFFF)
  | .runReset2 => (0x3A00000000000000, 0xFFFFFFFFFFFFFFFF)
  | .runWen => (0x3B00000000000000, 0xFFFFFFFFFFFFFFFF)

/-- The encoded word spells the operation: word AND mask = match. -/
def Statement (i : Instr) : Prop := encode i &&& (row i).2 = (row i).1

/-- Masking a word masks its three fields. -/
theorem opWord_and (o o' : BitVec 8) (a a' : BitVec 24) (b b' : BitVec 32) :
    opWord o a b &&& opWord o' a' b' = opWord (o &&& o') (a &&& a') (b &&& b') :=
  BitVec.and_append.trans (congrArg (· ++ (b &&& b')) BitVec.and_append)

/-- A word whose operand fields are masked to `a0` and `b0`. -/
theorem matches_of_fields {o : BitVec 8} {a a' a0 : BitVec 24} {b b' b0 : BitVec 32} (ha : a &&& a' = a0)
    (hb : b &&& b' = b0) : opWord o a b &&& opWord 0xFF a' b' = opWord o a0 b0 := by
  rw [opWord_and, ha, hb]
  congr 1
  exact BitVec.and_allOnes

/-- Sixteen zero bits above eight operand bits, the operand masked away. -/
theorem high_zero (x : BitVec 8) : ((0 : BitVec 16) ++ x) &&& 0xFFFF00 = (0 : BitVec 24) := by
  refine (BitVec.and_append (x₁ := (0 : BitVec 16)) (y₁ := x) (x₂ := 0xFFFF) (y₂ := 0)).trans ?_
  simp

/-- The same for the three operand fields of CFG_FORMAT. -/
theorem format_zero (pmode : BitVec 3) (order : BitVec 1) (w : BitVec 4) :
    ((0 : BitVec 16) ++ pmode ++ order ++ w) &&& 0xFFFF00 = (0 : BitVec 24) := by
  refine (BitVec.and_append (x₁ := (0 : BitVec 16) ++ pmode ++ order) (y₁ := w)
    (x₂ := (0xFFFF : BitVec 16) ++ (0 : BitVec 3) ++ (0 : BitVec 1)) (y₂ := 0)).trans ?_
  rw [BitVec.and_append, BitVec.and_append]
  simp

theorem init : Statement .init := by unfold Statement; decide
theorem decRegister (id : DecoderId) : Statement (.decRegister id) :=
  matches_of_fields (a' := 0xFFFFFF) BitVec.zero_and BitVec.and_zero
theorem ttSetup (sync : BitVec 8) (codes : Addr) : Statement (.ttSetup sync codes) :=
  matches_of_fields (a' := 0xFFFF00) (high_zero sync) BitVec.and_zero
theorem cfgFormat (w : BitVec 4) (order : BitVec 1) (pmode : BitVec 3) : Statement (.cfgFormat w order pmode) :=
  matches_of_fields (a' := 0xFFFF00) (b' := 0xFFFFFFFF)
    (format_zero pmode order w) BitVec.zero_and
theorem cfgSink (param : BitVec 32) : Statement (.cfgSink param) :=
  matches_of_fields (a' := 0xFFFFFF) BitVec.zero_and BitVec.and_zero
theorem encode (base : Addr) (len : BitVec 24) : Statement (.encode base len) :=
  matches_of_fields BitVec.and_zero BitVec.and_zero
theorem lineEdge (level : Bool) : Statement (.lineEdge level) := by unfold Statement; cases level <;> decide
theorem tick (n : BitVec 32) : Statement (.tick n) :=
  matches_of_fields (a' := 0xFFFFFF) BitVec.zero_and BitVec.and_zero
theorem edgeIsr : Statement .edgeIsr := by unfold Statement; decide
theorem timeoutIsr : Statement .timeoutIsr := by unfold Statement; decide
theorem rdDisable : Statement .rdDisable := by unfold Statement; decide
theorem rdEnable : Statement .rdEnable := by unfold Statement; decide
theorem frameQueued : Statement .frameQueued := by unfold Statement; decide
theorem runIval : Statement .runIval := by unfold Statement; decide
theorem runReset1 : Statement .runReset1 := by unfold Statement; decide
theorem runReset2 : Statement .runReset2 := by unfold Statement; decide
theorem runWen : Statement .runWen := by unfold Statement; decide

end Sys2Proof.Laws.RowMatch
end

