-- ==== Sys2Proof/Laws/Step.lean ====
section
/-! SUPPORT. When each operation has a transition and what it is, and what a step can be: every later proof cites these
instead of unfolding a meaning. -/

namespace Sys2Proof.Machine

/-- A transition behind an enabling condition. -/
theorem guarded_next {g : Bool} {t u : State} {r : Refusal} :
    (if g then (Host.Outcome.next u : Host.Outcome State Fault Refusal) else .refused r) = .next t ↔
      g = true ∧ t = u := by
  cases g <;> simp [eq_comm]

theorem execInit_next {s t : State} : execInit s = .next t ↔
    t = { s with enc := Enc.reset, cap := Cap.reset s.params (s.cap.epoch + 1) } := by
  simp [execInit, eq_comm]

theorem execDecRegister_next {id : DecoderId} {s t : State} : execDecRegister id s = .next t ↔
    s.cap.started = false ∧ s.cap.decoders.length < s.params.ndecMax ∧
      t = { s with cap := { s.cap with decoders := s.cap.decoders ++ [id] } } := by
  unfold execDecRegister
  by_cases h1 : s.cap.started <;> by_cases h2 : s.params.ndecMax ≤ s.cap.decoders.length <;>
    simp [h1, h2, eq_comm, Nat.not_lt.mpr, Nat.lt_of_not_le]

theorem execTtSetup_next {sync : BitVec 8} {codes : Addr} {s t : State} : execTtSetup sync codes s = .next t ↔
    s.enc.phase = .idle ∧ codesInRange codes = true ∧
      t = { s with enc := { s.enc with times := loadTable s.params s.buf codes.toNat, syncCount := some sync } } := by
  unfold execTtSetup encodeBusy
  by_cases h1 : s.enc.phase = .idle <;> by_cases h2 : codesInRange codes = true <;> simp [h1, h2, eq_comm]

theorem execCfgFormat_next {w : BitVec 4} {order : BitVec 1} {pmode : BitVec 3} {s t : State} :
    execCfgFormat w order pmode s = .next t ↔
      s.enc.phase = .idle ∧ ∃ mode, parityOfCode pmode = some mode ∧
        t = { s with enc := { s.enc with
          bitsPerSymbol := some w, bitOrder := some (bitOrderOfCode order), parityMode := some mode } } := by
  unfold execCfgFormat encodeBusy
  by_cases h1 : s.enc.phase = .idle <;> cases h2 : parityOfCode pmode <;> simp [h1, eq_comm]

theorem execCfgSink_next {param : BitVec 32} {s t : State} : execCfgSink param s = .next t ↔
    s.enc.phase = .idle ∧ t = { s with enc := { s.enc with sinkParam := some param } } := by
  unfold execCfgSink encodeBusy
  by_cases h1 : s.enc.phase = .idle <;> simp [h1, eq_comm]

theorem execEncode_next {base : Addr} {len : BitVec 24} {s t : State} : execEncode base len s = .next t ↔
    ∃ k, s.enc.phase = .idle ∧ s.enc.config = some k ∧ widthLegal k.width = true ∧ bufferInRange base len = true ∧
      t = { s with enc := if s.params.sequenced then encodeStart k base len s.enc
                          else encodeAtOnce k s.buf base len s.enc } := by
  unfold execEncode
  cases h : encodeCheck base len s.enc with
  | error r =>
    simp only [reduceCtorEq, false_iff, not_exists]
    rintro k ⟨h1, h2, h3, h4, -⟩
    rw [encodeCheck_ok_iff.mpr ⟨h1, h2, h3, h4⟩] at h
    cases h
  | ok k =>
    obtain ⟨h1, h2, h3, h4⟩ := encodeCheck_ok_iff.mp h
    constructor
    · intro ht
      refine ⟨k, h1, h2, h3, h4, ?_⟩
      by_cases hs : s.params.sequenced <;> simp [hs] at ht ⊢ <;> exact ht.symm
    · rintro ⟨k', -, hk', -, -, rfl⟩
      obtain rfl : k = k' := by rw [h2] at hk'; exact Option.some.inj hk'
      by_cases hs : s.params.sequenced <;> simp [hs]

theorem execLineEdge_next {level : Bool} {s t : State} : execLineEdge level s = .next t ↔
    t = { s with cap := { s.cap with capTime := some s.cap.now, capLevel := some level, capFlag := true } } := by
  simp [execLineEdge, eq_comm]

theorem execTick_next {n : BitVec 32} {s t : State} : execTick n s = .next t ↔
    t = { s with cap := tickBy s.params n.toNat s.cap } := by
  simp [execTick, eq_comm]

theorem execEdgeIsr_next {s t : State} : execEdgeIsr s = .next t ↔
    s.cap.capFlag = true ∧ s.cap.capIe = true ∧ t = { s with cap := edgeBody s.params s.cap } := by
  rw [execEdgeIsr, guarded_next, edgeEnabled, Bool.and_eq_true, and_assoc]

theorem execTimeoutIsr_next {s t : State} : execTimeoutIsr s = .next t ↔
    s.cap.cmpFlag = true ∧ t = { s with cap := timeoutBody s.params s.cap } := by
  rw [execTimeoutIsr, guarded_next, timeoutEnabled]

theorem execRdDisable_next {s t : State} : execRdDisable s = .next t ↔
    t = { s with cap := disableBody { s.cap with started := true } } := by
  simp [execRdDisable, eq_comm]

theorem execRdEnable_next {s t : State} : execRdEnable s = .next t ↔
    t = { s with cap := enableBody { s.cap with started := true } } := by
  simp [execRdEnable, eq_comm]

theorem execFrameQueued_next {s t : State} : execFrameQueued s = .next t ↔
    t = { s with cap := { s.cap with enableDelay :=
      if s.cap.enableDelay.toNat < s.params.enableDelayBusy.toNat then s.params.enableDelayBusy
      else s.cap.enableDelay } } := by
  simp [execFrameQueued, eq_comm]

theorem execRunIval_next {s t : State} : execRunIval s = .next t ↔
    s.cap.ivalPending = true ∧ t = { s with cap := ivalBody s.params s.cap } := by
  rw [execRunIval, guarded_next]

theorem execRunReset1_next {s t : State} : execRunReset1 s = .next t ↔
    s.cap.reset1Pending = true ∧ t = { s with cap := reset1Body s.params s.cap } := by
  rw [execRunReset1, guarded_next]

theorem execRunReset2_next {s t : State} : execRunReset2 s = .next t ↔
    s.cap.reset2Timer = some 0 ∧ t = { s with cap := doReset2 s.cap } := by
  rw [execRunReset2, guarded_next, reset2Enabled, decide_eq_true_eq]

theorem execRunWen_next {s t : State} : execRunWen s = .next t ↔
    s.cap.wenTimer = some 0 ∧
      t = { s with cap := { s.cap with wenTimer := none, capLog := s.cap.capLog ++ [.writerEnable] } } := by
  rw [execRunWen, guarded_next, wenEnabled, decide_eq_true_eq]

/-- ENC_STEP has a transition exactly when an encode is in flight, its configuration is complete and legal, and its next
byte exists. -/
theorem encStep_next {s t : State} : encStep s = .next t ↔
    s.enc.phase ≠ .idle ∧ ∃ k e, s.enc.config = some k ∧ widthLegal k.width = true ∧
      sequence k s.buf s.enc = .ok e ∧ t = { s with enc := e } := by
  unfold encStep
  by_cases hp : s.enc.phase = .idle
  · simp only [hp, if_true, reduceCtorEq, not_true, false_and, ne_eq]
  · rw [if_neg hp]
    cases hc : s.enc.config with
    | none => simp only [reduceCtorEq, false_and, exists_false, and_false]
    | some k =>
      by_cases hw : widthLegal k.width = true
      · cases hq : sequence k s.buf s.enc <;>
          simp only [hp, hw, hq, if_true, reduceCtorEq, Host.Outcome.next.injEq, Option.some.injEq, ne_eq, not_false_eq_true,
            true_and, exists_and_left, exists_eq_left', Except.ok.injEq, false_and, exists_false, and_false, eq_comm]
      · simp only [hw, Bool.false_eq_true, if_false, reduceCtorEq, Option.some.injEq, exists_and_left, exists_eq_left',
          false_and, and_false]

/-- A sequence of operations goes ahead exactly when its first does and the rest do after it. -/
theorem execAll_cons_next {i : Instr} {ops : List Instr} {s t : State} :
    execAll (i :: ops) s = .next t ↔ ∃ u, exec i s = .next u ∧ execAll ops u = .next t := by
  rw [execAll]
  cases exec i s <;> simp

/-- Everything a step can be when it answers a next state. -/
theorem step_next_cases {s t : State} (h : step s = .next t) :
    (s.inputs = [] ∧ t = s) ∨
    (∃ w i rest, s.inputs = .op w :: rest ∧ decode w = .ok i ∧ exec i { s with inputs := rest } = .next t) ∨
    (∃ rest, s.inputs = .encStep :: rest ∧ encStep { s with inputs := rest } = .next t) ∨
    (∃ a v rest, s.inputs = .bufWrite a v :: rest ∧
      t = { s with inputs := rest, buf := Memory.write s.buf a.toNat v }) := by
  unfold step at h
  split at h
  · rename_i hi
    cases h
    exact .inl ⟨hi, rfl⟩
  · rename_i w rest hi
    cases hd : decode w with
    | ok i =>
      simp only [hd] at h
      exact .inr (.inl ⟨w, i, rest, hi, hd, h⟩)
    | error e =>
      simp only [hd] at h
      cases h
  · rename_i rest hi
    exact .inr (.inr (.inl ⟨rest, hi, h⟩))
  · rename_i a v rest hi
    cases h
    exact .inr (.inr (.inr ⟨a, v, rest, hi, rfl⟩))

/-- What every step keeps, every run keeps. -/
theorem run_keeps {P : State → Prop} (hstep : ∀ s t, P s → step s = .next t → P t) (k : Nat) {s t : State}
    (hs : P s) (h : Sys2Proof.core.run k s = .next t) : P t := by
  induction k generalizing s with
  | zero => cases h; exact hs
  | succ k ih =>
    simp only [Host.Core.run] at h
    split at h
    · rename_i s' hq
      exact ih (hstep s s' hs hq) h
    · cases h
    · cases h

end Sys2Proof.Machine
end

