-- ==== Sys2Proof/Tests/Slice0.lean ====
section
/-! SUPPORT. Tests: expected values from spec/95_test_vectors.md (cited V, S) and from the encodings of
spec/30_encoding.md, never from the model; and, for each statement with hypotheses, states and operands that meet them. -/

namespace Sys2Proof.Tests

open Sys2Proof Sys2Proof.Machine

/-! ## Small states -/

/-- The state an operation gives, where it gives one. -/
def got (o : Host.Outcome State Fault Refusal) : Option State :=
  match o with
  | .next s => some s
  | .fault _ | .refused _ => none

/-- The refusal an operation gives, where it gives one. -/
def whyNot (o : Host.Outcome State Fault Refusal) : Option Refusal :=
  match o with
  | .refused r => some r
  | .next _ | .fault _ => none

/-- Whether an operation completes. -/
def runs (o : Host.Outcome State Fault Refusal) : Bool := (got o).isSome

/-- Whether what `f` reads is changed by an operation that completes. -/
def changes {α : Type} [DecidableEq α] (f : State → α) (i : Instr) (s : State) : Bool :=
  match exec i s with
  | .next t => decide (f t ≠ f s)
  | .fault _ | .refused _ => false

/-- A state with the given unit CAP. -/
def withCap (c : Cap) : State := { State.reset with cap := c }

/-- Unit CAP after the boot sequence of 95_test_vectors. -/
def boot : Cap := { Cap.reset {} 1 with started := true, capIe := true, decoders := [0xA, 0xB] }

/-- Unit CAP at the start of V5.1. -/
def latched : Cap := { boot with now := 500, capFlag := true, capTime := some 500, capLevel := some true }

/-- Unit CAP at the start of V5.3. -/
def armed : Cap := { boot with
  overflow := .armed, now := 1100, capFlag := true, capTime := some 1100, capLevel := some false,
  lastEdgeTime := some 500, pulseCount := 1, cmp := some 1600, cmpArmed := true }

/-- Unit CAP at the start of V5.7: the interval task of the edge before is still pending. -/
def late : Cap := { armed with
  now := 1500, capTime := some 1500, lastEdgeTime := some 1100, thisInterval := some 600, thisLevel := some false,
  ivalPending := true, pulseCount := 2, cmp := some 2200 }

/-- Unit CAP at the start of V8.1, with its settle window running out (V6.1). -/
def settled : Cap := { boot with
  overflow := .captured, now := 1200, capIe := false, capTime := some 1100, capLevel := some false,
  lastEdgeTime := some 1100, thisInterval := some 600, thisLevel := some false, ivalPending := true, pulseCount := 2,
  cmp := some 1200, cmpArmed := true, cmpFlag := true }

/-- Unit CAP with reset work in flight. -/
def resetting (o : Overflow) (first : Bool) (second : Option (BitVec 16)) : Cap := { boot with
  overflow := o, now := 1500, capIe := false, reset1Pending := first, reset2Timer := second, pulseCount := 3 }

/-- BUF of 95_test_vectors: the code bytes at 0x100, data bytes at 0x200, and the last byte of the space. -/
def buf : Memory :=
  [(0x100, 0x1E), (0x101, 0x3C), (0x102, 0x3C), (0x103, 0x1E), (0x104, 0xC8), (0x200, 0x55), (0x201, 0x0B),
   (0xFFFFFFFF, 0x80)]

/-- The configuration of S1 with the given preamble, width, order and parity. -/
def conf (sync : BitVec 8) (w : BitVec 4) (o : BitOrder) (m : ParityMode) : EncConfig :=
  ⟨30, 60, 60, 30, 200, sync, w, o, m, 7⟩

/-- Unit ENC configured as `k`. -/
def configured (k : EncConfig) : Enc := { Enc.reset with
  times := ⟨some k.zeroMark, some k.zeroSpace, some k.oneMark, some k.oneSpace, some k.idle⟩
  syncCount := some k.sync
  bitsPerSymbol := some k.width
  bitOrder := some k.order
  parityMode := some k.parity
  sinkParam := some k.param }

/-- The configuration of S1. -/
def s1 : EncConfig := conf 1 8 .msbFirst .even

/-- A machine configured as `k`, with its BUF. -/
def withEnc (k : EncConfig) : State := { State.reset with buf := buf, enc := configured k }

/-- The same machine in the stepwise form. -/
def stepwise (k : EncConfig) : State := { withEnc k with params := { sequenced := true } }

/-- A state whose next input is the given word. -/
def presented (w : OpWord) : State := { withCap boot with inputs := [.op w] }

/-- The calls an operation appended to an empty `sink_log`, `some false` a zero-pulse, `some true` a one-pulse, `none`
the idle marker. -/
def letters (k : EncConfig) (s : Option State) : Option (List (Option Bool)) :=
  s.map fun t => t.enc.sinkLog.map fun c =>
    if c = ⟨k.param, 0, k.idle⟩ then none else some (decide (c = ⟨k.param, k.oneMark, k.oneSpace⟩))

/-! ## Well-formedness: an ill-formed term is refused by each check -/

theorem test_wf_refuses_codes : Instr.wellFormed (.ttSetup 1 0xFFFFFFFC) = false := by decide

theorem test_wf_allows_last_codes : Instr.wellFormed (.ttSetup 1 0xFFFFFFFB) = true := by decide

theorem test_wf_refuses_parity : Instr.wellFormed (.cfgFormat 8 0 5) = false := by decide

theorem test_wf_refuses_buffer : Instr.wellFormed (.encode 0xFFFFFFFF 2) = false := by decide

theorem test_wf_allows_empty_buffer : Instr.wellFormed (.encode 0xFFFFFFFF 0) = true := by decide

/-! ## Decoding: every constructor, from the words of V1 -/

theorem test_decode_init : decodeTableWord 64 0x0100000000000000 = some .init := by decide

theorem test_decode_dec_register : decodeTableWord 64 0x02000000FFFFFFFF = some (.decRegister 0xFFFFFFFF) := by decide

theorem test_decode_tt_setup : decodeTableWord 64 0x100000FF00000100 = some (.ttSetup 255 0x100) := by decide

theorem test_decode_cfg_format : decodeTableWord 64 0x1100007400000000 = some (.cfgFormat 4 1 3) := by decide

theorem test_decode_cfg_format_wide : decodeTableWord 64 0x1100003900000000 = some (.cfgFormat 9 1 1) := by decide

theorem test_decode_cfg_sink : decodeTableWord 64 0x1200000000000007 = some (.cfgSink 7) := by decide

theorem test_decode_encode : decodeTableWord 64 0x1800000200000200 = some (.encode 0x200 2) := by decide

theorem test_decode_line_edge : decodeTableWord 64 0x2000000100000000 = some (.lineEdge true) := by decide

theorem test_decode_line_edge_0 : decodeTableWord 64 0x2000000000000000 = some (.lineEdge false) := by decide

theorem test_decode_tick : decodeTableWord 64 0x21000000000003E8 = some (.tick 1000) := by decide

theorem test_decode_edge_isr : decodeTableWord 64 0x2800000000000000 = some .edgeIsr := by decide

theorem test_decode_timeout_isr : decodeTableWord 64 0x2900000000000000 = some .timeoutIsr := by decide

theorem test_decode_rd_disable : decodeTableWord 64 0x3000000000000000 = some .rdDisable := by decide

theorem test_decode_rd_enable : decodeTableWord 64 0x3100000000000000 = some .rdEnable := by decide

theorem test_decode_frame_queued : decodeTableWord 64 0x3200000000000000 = some .frameQueued := by decide

theorem test_decode_run_ival : decodeTableWord 64 0x3800000000000000 = some .runIval := by decide

theorem test_decode_run_reset1 : decodeTableWord 64 0x3900000000000000 = some .runReset1 := by decide

theorem test_decode_run_reset2 : decodeTableWord 64 0x3A00000000000000 = some .runReset2 := by decide

theorem test_decode_run_wen : decodeTableWord 64 0x3B00000000000000 = some .runWen := by decide

/-- The words V1 lists as spelling no operation. -/
theorem test_decode_refuses :
    ([0x0000000000000000, 0x3C00000000000000, 0xFF00000000000000, 0x1900000000000000, 0x2200000000000000,
      0x0100000000000001, 0x0200000100000000, 0x1000010000000100, 0x1100008800000001, 0x1100018800000000,
      0x2000000200000000, 0x2800000000000100].map (decodeTableWord 64)) = List.replicate 12 none := by decide

/-- V1: a reserved parity code decodes, and CFG_FORMAT refuses it. -/
theorem test_reserved_parity_word : whyNot (step { State.reset with inputs := [.op 0x110000A800000000] }) =
    some .reservedParity := by decide

/-- The word of `withFetchWord` is taken by the very next step. -/
theorem test_fetch_word : (got (step (State.reset.withFetchWord 64 0x1200000000000007))).map (·.enc.sinkParam) =
    some (some 7) := by decide

/-! ## Single steps of unit ENC -/

/-- V2.1. -/
theorem test_init : (got (exec .init { withEnc s1 with cap := late })).map (fun t => (t.enc, t.cap.overflow, t.cap.capLog)) =
    some (Enc.reset, .first, []) := by decide

/-- V2.3. -/
theorem test_dec_register : (got (exec (.decRegister 0xA) (withCap { Cap.reset {} 0 with decoders := [0xA] }))).map
    (·.cap.decoders) = some [0xA, 0xA] := by decide

/-- V2.5. -/
theorem test_dec_register_closed : whyNot (exec (.decRegister 0xC) (withCap boot)) = some .decoderListClosed := by decide

/-- V2.6, 30_encoding R88. -/
theorem test_tt_setup : (got (exec (.ttSetup 1 0x100) { State.reset with buf := buf })).map
    (fun t => (t.enc.times, t.enc.syncCount)) =
    some (⟨some 30, some 60, some 60, some 30, some 200⟩, some 1) := by decide

/-- V2.14: the block stores what `rate` returns. -/
theorem test_tt_setup_rate : (got (exec (.ttSetup 1 0x100)
      { State.reset with buf := buf, params := { rate := [(0x1E, 300), (0x3C, 600), (0xC8, 2000)] } })).map (·.enc.times) =
    some ⟨some 300, some 600, some 600, some 300, some 2000⟩ := by decide

/-- V2.11. -/
theorem test_cfg_format : (got (exec (.cfgFormat 8 0 4) State.reset)).map
    (fun t => (t.enc.bitsPerSymbol, t.enc.bitOrder, t.enc.parityMode)) =
    some (some 8, some .msbFirst, some .even) := by decide

/-- V2.13. -/
theorem test_cfg_sink : (got (exec (.cfgSink 0xFFFFFFFF) State.reset)).map (·.enc.sinkParam) =
    some (some 0xFFFFFFFF) := by decide

/-- S1: `Z | O | Z O Z O Z O Z O | Z | Z | I`. -/
theorem test_encode_s1 : letters s1 (got (exec (.encode 0x200 1) (withEnc s1))) =
    some [some false, some true, some false, some true, some false, some true, some false, some true, some false,
      some true, some false, some false, none] := by decide

/-- V3.2: `O | O O Z O | Z | Z | I`. -/
theorem test_encode_lsb_odd : letters (conf 0 4 .lsbFirst .odd)
      (got (exec (.encode 0x201 1) (withEnc (conf 0 4 .lsbFirst .odd)))) =
    some [some true, some true, some true, some false, some true, some false, some false, none] := by decide

/-! ## Single steps of unit CAP -/

/-- V4.2. -/
theorem test_line_edge : (got (exec (.lineEdge false) (withCap { latched with now := 540 }))).map
    (fun t => (t.cap.capTime, t.cap.capLevel, t.cap.capFlag)) = some (some 540, some false, true) := by decide

/-- V4.3. -/
theorem test_tick_match : (got (exec (.tick 2)
      (withCap { settled with now := 98, cmp := some 100, cmpFlag := false }))).map
    (fun t => (t.cap.now, t.cap.cmpFlag)) = some (100, true) := by decide

/-- V4.8 and V4.10: the timer wraps at the match; the delay timers count down. -/
theorem test_tick_wrap : (got (exec (.tick 99) (withCap { settled with
      now := 65510, cmp := some 74, cmpFlag := false, reset2Timer := some 20, wenTimer := some 150 }))).map
    (fun t => (t.cap.now, t.cap.cmpFlag, t.cap.reset2Timer, t.cap.wenTimer)) =
    some (73, false, some 0, some 51) := by decide

/-- V5.2: the window runs from the handler, the timestamp from the latch. -/
theorem test_edge_isr_first : (got (exec .edgeIsr (withCap { latched with now := 507 }))).map
    (fun t => (t.cap.overflow, t.cap.lastEdgeTime, t.cap.cmp, t.cap.pulseCount, t.cap.ivalPending)) =
    some (.captured, some 500, some 607, 1, false) := by decide

/-- V5.8 with the count of V5.4. -/
theorem test_edge_isr_armed : (got (exec .edgeIsr (withCap { armed with
      capTime := some 274, lastEdgeTime := some 65510, pulseCount := 2 }))).map
    (fun t => (t.cap.thisInterval, t.cap.thisLevel, t.cap.ivalPending, t.cap.capLog)) =
    some (some 300, some false, true, [.writerDisable]) := by decide

/-- V6.7. -/
theorem test_timeout_isr_captured : (got (exec .timeoutIsr (withCap { settled with now := 65000 }))).map
    (fun t => (t.cap.overflow, t.cap.cmp, t.cap.capIe)) = some (.armed, some 464, true) := by decide

/-- V6.3. -/
theorem test_timeout_isr_armed : (got (exec .timeoutIsr (withCap { armed with now := 1600, cmpFlag := true }))).map
    (fun t => (t.cap.overflow, t.cap.reset1Pending, t.cap.capIe, t.cap.cmpArmed)) =
    some (.resetQuiet, true, false, false) := by decide

/-- V7.6. -/
theorem test_rd_disable : (got (exec .rdDisable (withCap (resetting .reset false (some 10))))).map
    (fun t => (t.cap.overflow, t.cap.reset1Pending, t.cap.reset2Timer)) =
    some (.resetDisableDeferred, false, some 10) := by decide

/-- V7.16. -/
theorem test_rd_enable : (got (exec .rdEnable (withCap settled))).map
    (fun t => (t.cap.overflow, t.cap.capIe, t.cap.cmpArmed, t.cap.ivalPending)) =
    some (.first, true, false, true) := by decide

/-- V7.22. -/
theorem test_frame_queued : (got (exec .frameQueued (withCap { boot with wenTimer := some 30 }))).map
    (fun t => (t.cap.enableDelay, t.cap.wenTimer)) = some (200, some 30) := by decide

/-- V8.1. -/
theorem test_run_ival : (got (exec .runIval (withCap settled))).map (fun t => (t.cap.capLog, t.cap.ivalPending)) =
    some ([.onInterval 0xA 600 false, .onInterval 0xB 600 false], false) := by decide

/-- V8.7. -/
theorem test_run_reset1_quiet : (got (exec .runReset1 (withCap (resetting .resetQuiet true none)))).map
    (fun t => (t.cap.capLog, t.cap.overflow, t.cap.wenTimer, t.cap.pulseCount)) =
    some ([.onReset 0xA, .onReset 0xB], .first, some 50, 0) := by decide

/-- V8.9. -/
theorem test_run_reset1_overrun : (got (exec .runReset1 (withCap { resetting .reset true none with enableDelay := 200 }))).map
    (fun t => (t.cap.overflow, t.cap.reset2Timer, t.cap.wenTimer, t.cap.enableDelay)) =
    some (.reset, some 20, some 200, 50) := by decide

/-- V8.15. -/
theorem test_run_reset2 : (got (exec .runReset2 (withCap (resetting .resetDisableDeferred false (some 0))))).map
    (fun t => (t.cap.overflow, t.cap.reset2Timer, t.cap.capIe)) = some (.resetDisable, none, false) := by decide

/-- V8.17. -/
theorem test_run_wen : (got (exec .runWen (withCap { boot with wenTimer := some 0 }))).map
    (fun t => (t.cap.capLog, t.cap.wenTimer)) = some ([.writerEnable], none) := by decide

/-- The caller's write that makes a byte what an unlisted byte reads as removes it from the list. -/
theorem test_buf_write_canonical : Memory.write buf 0x200 0 =
    [(0x100, 0x1E), (0x101, 0x3C), (0x102, 0x3C), (0x103, 0x1E), (0x104, 0xC8), (0x201, 0x0B), (0xFFFFFFFF, 0x80)] := by
  decide

/-- 41_encoder R120: the first turn of the sequencer emits the preamble's one zero-pulse and moves to the start pulse. -/
theorem test_enc_step : (got (exec (.encode 0x200 1) (stepwise s1))).bind (fun t => (got (encStep t)).map
    (fun u => (u.enc.sinkLog, u.enc.phase))) = some ([⟨7, 30, 60⟩], .start) := by decide

/-! ## Witnesses: what each statement's hypotheses are met by -/

theorem witness_ready : EncodeReady 0x200 1 (withEnc s1).enc s1 := by constructor <;> decide

theorem witness_ready_last_byte : EncodeReady 0xFFFFFFFF 1 (withEnc s1).enc s1 := by constructor <;> decide

theorem witness_ready_empty : EncodeReady 0xFFFFFFFF 0 (withEnc s1).enc s1 := by constructor <;> decide

theorem witness_ready_stepwise : EncodeReady 0x200 1 (stepwise s1).enc s1 := by constructor <;> decide

/-- The invariant of unit CAP holds in each of the small states. -/
theorem witness_cap_inv :
    Cap.Inv {} boot ∧ Cap.Inv {} latched ∧ Cap.Inv {} armed ∧ Cap.Inv {} late ∧ Cap.Inv {} settled ∧
    Cap.Inv {} (resetting .reset false (some 10)) ∧ Cap.Inv {} (resetting .resetQuiet true none) ∧
    Cap.Inv {} (resetting .resetDisable false none) ∧ Cap.Inv {} (resetting .resetDisableDeferred true none) := by
  refine ⟨?_, ?_, ?_, ?_, ?_, ?_, ?_, ?_, ?_⟩ <;> constructor <;>
    simp [boot, latched, armed, late, settled, resetting, Cap.reset, BoundedBy]

/-- The invariant holds in a state of unit CAP, the rest as after reset, with any inputs. -/
theorem inv_withCap {c : Cap} (h : Cap.Inv {} c) (inputs : List Input) :
    ({ withCap c with inputs := inputs } : State).Inv where
  params := (by decide : ({} : Params).Valid)
  buf := rfl
  enc := by constructor <;> simp [withCap, State.reset, Enc.reset, BoundedBy]
  cap := h

theorem witness_StepKeepsTheInvariant : (presented 0x2000000100000000).Inv ∧ ∃ t, step (presented 0x2000000100000000) = .next t :=
  ⟨inv_withCap witness_cap_inv.1 _, _, rfl⟩

/-- An encode in flight, in its data phase. -/
def inFlight : State := { stepwise s1 with
  inputs := [.encStep]
  enc := { configured s1 with
    phase := .data, base := 0x200, len := 1, byteIdx := 0, byte := 0x55, bitCnt := 7 } }

theorem witness_StepKeepsTheInvariant_in_flight : inFlight.Inv ∧ ∃ t, step inFlight = .next t := by
  refine ⟨⟨by decide, by decide, ⟨?_, fun _ => ⟨s1, ?_⟩⟩, ?_⟩, _, rfl⟩
  · simp [inFlight, configured, s1, conf, BoundedBy, stepwise]
  · constructor <;> simp [inFlight, configured, s1, conf, stepwise] <;> decide
  · constructor <;> simp [inFlight, stepwise, withEnc, State.reset, Cap.reset, BoundedBy]

theorem witness_NoStepFaultsUnderTheInvariant : inFlight.Inv := witness_StepKeepsTheInvariant_in_flight.1

theorem witness_DecodedWordsEncodeBack : decode 0x1100007400000000 = .ok (.cfgFormat 4 1 3) := by rfl

theorem witness_StepTakesTheNextInput :
    State.reset.inputs = [] ∧ (presented 0x2100000000000001).inputs = [.op 0x2100000000000001] ∧
    decode 0x2100000000000001 = .ok (.tick 1) ∧ decode 0x2200000000000000 = .error (.unassignedOpcode 0x22) ∧
    inFlight.inputs = [.encStep] ∧
    ({ State.reset with inputs := [.bufWrite 0xFFFFFFFF 1] } : State).inputs = [.bufWrite 0xFFFFFFFF 1] := by
  refine ⟨rfl, rfl, rfl, rfl, rfl, rfl⟩

theorem witness_CanonicalBufIsDeterminedByItsReads :
    Memory.wf buf = true ∧ Memory.wf (Memory.write (Memory.write buf 0x300 1) 0x300 0) = true ∧
      ∀ a, Memory.read buf a = Memory.read (Memory.write (Memory.write buf 0x300 1) 0x300 0) a :=
  ⟨by decide, by decide, fun _ => rfl⟩

theorem witness_OperationsNeverWriteBuf : ∃ t, exec (.encode 0x200 1) (withEnc s1) = .next t := ⟨_, rfl⟩

theorem witness_StepWritesBufOnlyForItsCaller :
    Memory.wf buf = true ∧ (∃ t, step { withEnc s1 with inputs := [.bufWrite 0xFFFFFFFF 0] } = .next t) ∧
      ∃ t, step { withEnc s1 with inputs := [.op 0x1800000100000200] } = .next t := ⟨by decide, ⟨_, rfl⟩, ⟨_, rfl⟩⟩

theorem witness_UnitsShareNoState :
    instrIsCap .edgeIsr = true ∧ (∃ t, exec .edgeIsr (withCap latched) = .next t) ∧
    instrIsEnc (.cfgSink 7) = true ∧ (∃ t, exec (.cfgSink 7) State.reset = .next t) ∧
    ∃ t, encStep inFlight = .next t := ⟨rfl, ⟨_, rfl⟩, rfl, ⟨_, rfl⟩, ⟨_, rfl⟩⟩

/-- Two operations, one of each unit; and a turn of the sequencer beside an operation of unit CAP that goes ahead and
beside one that is refused. -/
theorem witness_UnitOperationsCommute :
    instrIsEnc (.encode 0x200 1) = true ∧ instrIsCap .runReset1 = true ∧
    (∃ a, exec (.encode 0x200 1) { withEnc s1 with cap := resetting .reset true none } = .next a) ∧
    (∃ b, exec .runReset1 { withEnc s1 with cap := resetting .reset true none } = .next b) ∧
    instrIsCap .edgeIsr = true ∧ (∃ a, encStep { inFlight with cap := late } = .next a) ∧
    (∃ b, exec .edgeIsr { inFlight with cap := late } = .next b) ∧
    instrIsCap .runWen = true ∧ exec .runWen { inFlight with cap := late } = .refused .notEnabled :=
  ⟨rfl, rfl, ⟨_, rfl⟩, ⟨_, rfl⟩, rfl, ⟨_, rfl⟩, ⟨_, rfl⟩, rfl, rfl⟩

/-- Each piece of state of the access matrix is changed by an operation listed for it. -/
theorem witness_OnlyListedOperationsWriteEachRegister :
    changes (·.enc.times) (.ttSetup 1 0x100) { State.reset with buf := buf } = true ∧
    changes (·.enc.parityMode) (.cfgFormat 8 0 4) State.reset = true ∧
    changes (·.enc.sinkParam) (.cfgSink 7) State.reset = true ∧
    changes (·.enc.sinkLog) (.encode 0x200 1) (withEnc s1) = true ∧
    changes (·.cap.overflow) .rdDisable (withCap armed) = true ∧
    changes (·.cap.lastEdgeTime) .edgeIsr (withCap latched) = true ∧
    changes (·.cap.pulseCount) .edgeIsr (withCap latched) = true ∧
    changes (·.cap.enableDelay) .frameQueued (withCap boot) = true ∧
    changes (·.cap.decoders) (.decRegister 1) State.reset = true ∧
    changes (·.cap.started) .rdEnable State.reset = true ∧
    changes (·.cap.now) (.tick 1) (withCap boot) = true ∧
    changes (·.cap.capTime) (.lineEdge true) (withCap boot) = true ∧
    changes (·.cap.capFlag) .edgeIsr (withCap latched) = true ∧
    changes (·.cap.cmp) .timeoutIsr (withCap settled) = true ∧
    changes (·.cap.cmpFlag) .timeoutIsr (withCap settled) = true ∧
    changes (·.cap.ivalPending) .runIval (withCap settled) = true ∧
    changes (·.cap.reset1Pending) .edgeIsr (withCap late) = true ∧
    changes (·.cap.reset2Timer) .runReset2 (withCap (resetting .reset false (some 0))) = true ∧
    changes (·.cap.wenTimer) .runWen (withCap { boot with wenTimer := some 0 }) = true ∧
    changes (·.cap.capLog) .runIval (withCap settled) = true := by decide

theorem witness_LogsOnlyGrowAtTheEnd : (∃ t, exec .runIval (withCap settled) = .next t) ∧ Instr.runIval ≠ .init ∧
    (∃ t, encStep inFlight = .next t) ∧ inFlight.Inv :=
  ⟨⟨_, rfl⟩, by decide, ⟨_, rfl⟩, witness_StepKeepsTheInvariant_in_flight.1⟩

/-- One call of each kind is logged by its one source. -/
theorem witness_EachCapCallHasOneSource :
    ((got (exec .runIval (withCap settled))).map (·.cap.capLog)) =
      some ([] ++ [.onInterval 0xA 600 false, .onInterval 0xB 600 false]) ∧
    ((got (exec .runReset1 (withCap (resetting .resetQuiet true none)))).map (·.cap.capLog)) =
      some ([] ++ [.onReset 0xA, .onReset 0xB]) ∧
    ((got (exec .runWen (withCap { boot with wenTimer := some 0 }))).map (·.cap.capLog)) = some ([] ++ [.writerEnable]) ∧
    ((got (exec .edgeIsr (withCap late))).map (·.cap.capLog)) = some ([] ++ [.writerDisable]) ∧
    ((got (exec .edgeIsr (withCap { settled with capFlag := true, capIe := true }))).map (·.cap.capLog)) =
      some ([] ++ [.fatal 1 2]) := by decide

/-- V5.13: taken by hand in RESET, the handler reports the fatal condition; and a reachable EDGE_ISR. -/
theorem witness_FatalProtocolOnlyFromUnexpectedCapture :
    ((got (exec .edgeIsr (withCap { resetting .reset true none with capFlag := true, capIe := true }))).map
      (·.cap.capLog)) = some ([] ++ [.fatal 1 3]) ∧ Instr.edgeIsr ≠ .init ∧
    (withCap latched).Inv ∧ ∃ t, exec .edgeIsr (withCap latched) = .next t :=
  ⟨by decide, by decide, inv_withCap witness_cap_inv.2.1 [], _, rfl⟩

/-- Rows of the transition table, one for each operation that has any. -/
theorem witness_OverflowFollowsTheTransitionTable :
    ([((got (exec .init (withCap armed))).map (·.cap.overflow)), (got (exec .edgeIsr (withCap late))).map (·.cap.overflow),
      (got (exec .timeoutIsr (withCap settled))).map (·.cap.overflow),
      (got (exec .rdDisable (withCap armed))).map (·.cap.overflow),
      (got (exec .rdEnable (withCap (resetting .resetDisable false none)))).map (·.cap.overflow),
      (got (exec .runReset1 (withCap (resetting .resetDisableDeferred true none)))).map (·.cap.overflow),
      (got (exec .runReset2 (withCap (resetting .reset false (some 0))))).map (·.cap.overflow),
      (got (exec (.tick 5) (withCap armed))).map (·.cap.overflow)]) =
    [some .first, some .reset, some .armed, some .resetDisableDeferred, some .first, some .resetDisable, some .first,
      some .armed] := by decide

theorem witness_SuspendedUntilEnabled :
    (withCap (resetting .resetDisable false none)).Inv ∧ (resetting .resetDisable false none).overflow = .resetDisable ∧
    (∃ t, exec (.lineEdge true) (withCap (resetting .resetDisable false none)) = .next t) ∧
    Instr.lineEdge true ≠ .init ∧ Instr.lineEdge true ≠ .rdEnable :=
  ⟨inv_withCap witness_cap_inv.2.2.2.2.2.2.2.1 [], rfl, ⟨_, rfl⟩, by decide, by decide⟩

/-- The boundaries: seven entries leave room for one more, eight do not. -/
theorem witness_DecRegisterAppendsUntilClosed :
    (Cap.reset {} 0).started = false ∧ (List.replicate 7 (9 : DecoderId)).length < ({} : Params).ndecMax ∧
    boot.started = true ∧ ({} : Params).ndecMax ≤ (List.replicate 8 (9 : DecoderId)).length := by decide

theorem witness_TtSetupLoadsTheTable :
    State.reset.enc.phase = .idle ∧ (0xFFFFFFFB : Addr).toNat + 4 < 2 ^ 32 ∧ 2 ^ 32 ≤ (0xFFFFFFFC : Addr).toNat + 4 := by
  decide

theorem witness_CfgFormatWritesTheFormat :
    State.reset.enc.phase = .idle ∧
    ((4 : BitVec 3), ParityMode.even) ∈
      [((0 : BitVec 3), ParityMode.none), (1, .mark), (2, .space), (3, .odd), (4, .even)] ∧
    5 ≤ (5 : BitVec 3).toNat := by decide

theorem witness_CfgSinkWritesTheParameter : State.reset.enc.phase = .idle := rfl

theorem witness_ConfigurationIsFrozenDuringAnEncode : inFlight.enc.phase ≠ .idle := by decide

theorem witness_EncodeRunsExactlyWhenReady :
    (∃ k, EncodeReady 0xFFFFFFFF 1 (withEnc s1).enc k) ∧ ¬ ∃ k, EncodeReady 0xFFFFFFFF 2 (withEnc s1).enc k := by
  refine ⟨⟨s1, witness_ready_last_byte⟩, ?_⟩
  rintro ⟨k, h⟩
  exact absurd h.inBuf (by decide)

theorem witness_EncodeEmitsThePulseTrain :
    (withEnc s1).params.sequenced = false ∧ EncodeReady 0xFFFFFFFF 0 (withEnc s1).enc s1 ∧
      EncodeReady 0xFFFFFFFF 1 (withEnc s1).enc s1 := ⟨rfl, witness_ready_empty, witness_ready_last_byte⟩

theorem witness_SequencedEncodeStartsTheSequencer :
    (stepwise s1).params.sequenced = true ∧ EncodeReady 0x200 1 (stepwise s1).enc s1 := ⟨rfl, witness_ready_stepwise⟩

theorem witness_SequencerRefinesAtomicEncode :
    (stepwise s1).params.sequenced = true ∧ EncodeReady 0x200 1 (stepwise s1).enc s1 ∧
    (∃ t, exec (.encode 0x200 1) (stepwise s1) = .next t) ∧
    ∃ v, exec (.encode 0x200 1) { stepwise s1 with params := { (stepwise s1).params with sequenced := false } } = .next v :=
  ⟨rfl, witness_ready_stepwise, ⟨_, rfl⟩, ⟨_, rfl⟩⟩

/-- A second state with the same Channel Context and the same byte, in another BUF and with another log. -/
def other : State := { withEnc s1 with
  buf := [(0x200, 0x55)], cap := armed, enc := { configured s1 with sinkLog := [⟨1, 2, 3⟩] } }

theorem witness_EncodeOutputDependsOnlyOnContextAndBytes :
    other.params.sequenced = false ∧ other.enc.phase = .idle ∧ other.enc.times = (withEnc s1).enc.times ∧
    other.enc.syncCount = (withEnc s1).enc.syncCount ∧ other.enc.bitsPerSymbol = (withEnc s1).enc.bitsPerSymbol ∧
    other.enc.bitOrder = (withEnc s1).enc.bitOrder ∧ other.enc.parityMode = (withEnc s1).enc.parityMode ∧
    other.enc.sinkParam = (withEnc s1).enc.sinkParam ∧
    (∀ i < (1 : BitVec 24).toNat, Memory.read other.buf ((0x200 : Addr).toNat + i) =
      Memory.read (withEnc s1).buf ((0x200 : Addr).toNat + i)) ∧
    ∃ t, exec (.encode 0x200 1) (withEnc s1) = .next t :=
  ⟨rfl, rfl, rfl, rfl, rfl, rfl, rfl, rfl, by decide, _, rfl⟩

/-- Two bytes that agree in their low four bits give the same calls at width four. -/
def half : EncConfig := conf 0 4 .lsbFirst .odd

theorem witness_EncodedCallsDetermineTheBytes :
    EncodeReady 0x201 1 (withEnc half).enc half ∧ (half.zeroMark, half.zeroSpace) ≠ (half.oneMark, half.oneSpace) ∧
    ∃ calls t t', exec (.encode 0x201 1) (withEnc half) = .next t ∧
      exec (.encode 0x201 1) { withEnc half with buf := [(0x201, 0xFB)] } = .next t' ∧
      t.enc.sinkLog = (withEnc half).enc.sinkLog ++ calls ∧ t'.enc.sinkLog = (withEnc half).enc.sinkLog ++ calls :=
  ⟨by constructor <;> decide, by decide, encodeCalls half [0x0B], _, _, rfl, rfl, by decide, by decide⟩

theorem witness_ParityPulseFollowsTheMode :
    (conf 1 8 .msbFirst .none).parity = .none ∧ (conf 1 8 .msbFirst .mark).parity = .mark ∧
    (conf 1 8 .msbFirst .space).parity = .space ∧ (conf 1 8 .msbFirst .odd).parity = .odd ∧ s1.parity = .even := by decide

theorem witness_SyncPreambleThenOneStartPulse :
    (withEnc half).params.sequenced = false ∧ EncodeReady 0x201 1 (withEnc half).enc half ∧ half.sync = 0 ∧
    ∃ t calls, exec (.encode 0x201 1) (withEnc half) = .next t ∧ t.enc.sinkLog = (withEnc half).enc.sinkLog ++ calls :=
  ⟨rfl, by constructor <;> decide, rfl, _, encodeCalls half [0x0B], rfl, by decide⟩

theorem witness_EndMarkerThenIdleMarker :
    (withEnc s1).params.sequenced = false ∧ EncodeReady 0x200 1 (withEnc s1).enc s1 ∧
    ∃ t, exec (.encode 0x200 1) (withEnc s1) = .next t := ⟨rfl, witness_ready, _, rfl⟩

/-- The flag rises, stays, and stays down: each clause of the statement, at the last value of the timer. -/
theorem witness_TickAdvancesTimeOnly :
    ({ settled with now := 65535 } : Cap).now < 2 ^ ({} : Params).tw ∧ settled.cmpFlag = true ∧ boot.cmpArmed = false ∧
    armed.cmpArmed = true ∧ armed.cmp = some 1600 := by decide

theorem witness_TicksAddUp :
    (0xFFFFFFFE : BitVec 32).toNat + (1 : BitVec 32).toNat < 2 ^ 32 ∧
      ∃ t, exec (.tick 0xFFFFFFFE) (withCap armed) = .next t := ⟨by decide, _, rfl⟩

theorem witness_WindowEndsExactlyAtItsTick : 1 ≤ 1 ∧ 1 ≤ 65535 ∧ 65535 < 2 ^ ({} : Params).tw := by decide

theorem witness_DelayTimersEnableAfterExactlyTheirDelay :
    (∃ t, exec (.tick 20) (withCap { resetting .reset false (some 20) with wenTimer := some 0 }) = .next t) ∧
    (resetting .reset false (some 20)).reset2Timer = some 20 := ⟨⟨_, rfl⟩, rfl⟩

theorem witness_EdgeIsrPrimesInFirst :
    latched.capFlag = true ∧ latched.capIe = true ∧ latched.overflow = .first ∧ latched.capTime = some 500 := by decide

theorem witness_EdgeIsrAcceptsInArmed :
    let c : Cap := { armed with lastEdgeTime := some 65535 }
    c.capFlag = true ∧ c.capIe = true ∧ c.overflow = .armed ∧ c.ivalPending = false ∧ c.capTime = some 1100 ∧
    c.capLevel = some false ∧ c.lastEdgeTime = some 65535 ∧ 65535 < 2 ^ ({} : Params).tw := by decide

theorem witness_EdgeIsrOverrunEntersReset :
    late.capFlag = true ∧ late.capIe = true ∧ late.overflow = .armed ∧ late.ivalPending = true := by decide

theorem witness_EdgeIsrElsewhereReportsFatal :
    ∀ p ∈ [(Overflow.captured, (2 : BitVec 3)), (.reset, 3), (.resetQuiet, 4), (.resetDisable, 5),
      (.resetDisableDeferred, 6)],
    let c : Cap := { resetting p.1 true none with capFlag := true, capIe := true }
    c.capFlag = true ∧ c.capIe = true ∧ c.overflow = p.1 := by decide

/-- For each clause: the interval task at once; a sequence of other operations; RD_ENABLE interposed (R209). -/
theorem witness_OverrunDispatchesNoInterval : ∃ a, late.overflow = .armed ∧ late.ivalPending = true ∧
    exec .edgeIsr (withCap late) = .next a ∧ (∃ b, exec .runIval a = .next b) ∧ (withCap late).Inv ∧
    (∃ b, execAll [.lineEdge true, .tick 5, .frameQueued, .rdDisable, .runIval] a = .next b) ∧
    (∀ i ∈ [Instr.lineEdge true, .tick 5, .frameQueued, .rdDisable, .runIval],
      i ≠ .init ∧ i ≠ .rdEnable ∧ i ≠ .runReset1) ∧
    late.thisInterval = some 600 ∧ late.thisLevel = some false :=
  ⟨_, rfl, rfl, rfl, ⟨_, rfl⟩, inv_withCap witness_cap_inv.2.2.2.1 [], ⟨_, rfl⟩, by decide, rfl, rfl⟩

theorem witness_TimeoutIsrClosesTheWindow :
    boot.cmpFlag = false ∧ (settled.cmpFlag = true ∧ settled.overflow = .captured ∧ settled.capFlag = false) ∧
    ({ settled with capFlag := true } : Cap).capFlag = true ∧
    ({ armed with cmpFlag := true } : Cap).cmpFlag = true ∧ armed.overflow = .armed := by decide

theorem witness_TimeoutIsrElsewhereOnlyAcknowledges :
    ({ boot with cmpFlag := true } : Cap).cmpFlag = true ∧ boot.overflow ≠ .captured ∧ boot.overflow ≠ .armed := by decide

theorem witness_RdEnableCancelsOrRearms :
    (resetting .resetDisableDeferred true none).overflow = .resetDisableDeferred ∧
      armed.overflow ≠ .resetDisableDeferred := by decide

theorem witness_RequestsMergeIntoOneBroadcast : ∃ a b c, (resetting .resetQuiet true none).reset1Pending = true ∧
    exec .rdDisable (withCap (resetting .resetQuiet true none)) = .next a ∧ exec .rdDisable a = .next b ∧
    exec .runReset1 b = .next c := ⟨_, _, _, rfl, rfl, rfl, rfl⟩

theorem witness_RunIvalDeliversOrDiscards :
    settled.ivalPending = true ∧ settled.thisInterval = some 600 ∧ settled.thisLevel = some false := by decide

theorem witness_RunReset1DoesTheFirstPhase : (resetting .reset true none).reset1Pending = true := rfl

theorem witness_RunReset2DoesTheSecondPhase :
    (resetting .resetDisableDeferred false (some 0)).reset2Timer = some 0 ∧
    (resetting .resetDisableDeferred false (some 0)).overflow = .resetDisableDeferred ∧
    (resetting .reset false (some 0)).overflow ≠ .resetDisableDeferred := by decide

theorem witness_RunWenReleasesTheTransmitter : ({ late with wenTimer := some 0 } : Cap).wenTimer = some 0 := rfl

/-- For each of the four reset states. -/
theorem witness_IntervalTaskOrderDoesNotMatterInReset :
    ∀ o ∈ [Overflow.reset, .resetQuiet, .resetDisable, .resetDisableDeferred],
      ∃ a b, (resetting o true none).reset1Pending = true ∧
        exec .runIval (withCap { resetting o true none with
          ivalPending := true, thisInterval := some 600, thisLevel := some false }) = .next a ∧
        exec .runReset1 a = .next b := by
  intro o ho
  simp only [List.mem_cons, List.not_mem_nil, or_false] at ho
  rcases ho with rfl | rfl | rfl | rfl <;> exact ⟨_, _, rfl, rfl, rfl⟩

theorem witness_NoIntervalBeforeTheBroadcast :
    (withCap (resetting .resetQuiet true none)).Inv ∧ (resetting .resetQuiet true none).reset1Pending = true ∧
    isResetState (resetting .resetQuiet true none).overflow = true ∧
    (∃ t, exec .frameQueued (withCap (resetting .resetQuiet true none)) = .next t) ∧
    Instr.frameQueued ≠ .init ∧ Instr.frameQueued ≠ .rdEnable ∧ Instr.frameQueued ≠ .runReset1 :=
  ⟨inv_withCap witness_cap_inv.2.2.2.2.2.2.1 [], rfl, rfl, ⟨_, rfl⟩, by decide, by decide, by decide⟩

end Sys2Proof.Tests
end

section
/-! PROOFS. The pulses of one byte and the pulse train of one atomic ENCODE (spec/41_encoder.md R112 to R118). -/

namespace Sys2Proof.Machine

/-! ### The running parity -/

@[simp] theorem runningParity_nil : runningParity [] = false := rfl

@[simp] theorem runningParity_concat (bits : List Bool) (b : Bool) :
    runningParity (bits ++ [b]) = (runningParity bits ^^ b) := by
  simp only [runningParity, List.foldl_append, List.foldl_cons, List.foldl_nil]

/-- One more set bit flips the oddness of a count. -/
theorem decide_add_toNat_odd (n : Nat) (b : Bool) :
    decide ((n + b.toNat) % 2 = 1) = (decide (n % 2 = 1) ^^ b) := by
  cases b with
  | false => simp
  | true =>
    rw [Bool.toNat_true, Bool.xor_true, ← decide_not, decide_eq_decide]
    omega

theorem count_true_concat (bits : List Bool) (b : Bool) : (bits ++ [b]).count true = bits.count true + b.toNat := by
  cases b <;> simp

/-- The running parity is the oddness of the number of one-bits (41_encoder R113). -/
theorem runningParity_eq_odd_count (bits : List Bool) : runningParity bits = decide (bits.count true % 2 = 1) := by
  induction bits using List.reverseRecOn with
  | nil => rfl
  | append_singleton bits b ih => rw [runningParity_concat, ih, count_true_concat, decide_add_toNat_odd]

/-! ### The data bits of a byte -/

/-- The low `w` bits of a byte, the least significant first. -/
def lowBits (w : Nat) (v : Byte) : List Bool := (List.range w).map v.getLsbD

theorem dataBits_of_lsbFirst {k : EncConfig} (h : k.order = .lsbFirst) (v : Byte) :
    dataBits k v = lowBits k.width.toNat v := by
  refine List.map_congr_left fun n _ => ?_
  rw [dataBit, h, bitIndex]

/-- The most significant bit first is the reverse of the least significant bit first (41_encoder R112). -/
theorem dataBits_of_msbFirst {k : EncConfig} (h : k.order = .msbFirst) (v : Byte) :
    dataBits k v = (lowBits k.width.toNat v).reverse := by
  refine List.ext_getElem (by simp only [dataBits, lowBits, List.length_reverse, List.length_map]) fun n _ _ => ?_
  simp only [dataBits, dataBit, h, bitIndex, lowBits, List.getElem_reverse, List.getElem_map, List.getElem_range,
    List.length_map, List.length_range]

theorem count_true_lowBits (w : Nat) (v : Byte) : (lowBits w v).count true = setBits w v := by
  simp only [lowBits, setBits, List.count, List.countP_map, Function.comp_def, beq_true]

/-- In either order the data bits hold the set bits among the low `w` (41_encoder R113). -/
theorem count_true_dataBits (k : EncConfig) (v : Byte) : (dataBits k v).count true = setBits k.width.toNat v := by
  cases h : k.order with
  | msbFirst => rw [dataBits_of_msbFirst h, List.count_reverse, count_true_lowBits]
  | lsbFirst => rw [dataBits_of_lsbFirst h, count_true_lowBits]

@[simp] theorem length_dataBits (k : EncConfig) (v : Byte) : (dataBits k v).length = k.width.toNat := by
  simp only [dataBits, List.length_map, List.length_range]

theorem byteParity_eq_odd_setBits (k : EncConfig) (v : Byte) :
    byteParity k v = decide (setBits k.width.toNat v % 2 = 1) := by
  rw [byteParity, runningParity_eq_odd_count, count_true_dataBits]

/-- Settles O34: the running parity counts the one-bits modulo 2, and the order only reverses them. -/
theorem runningParityIsTheOddnessOfSetBits : Obligations.RunningParityIsTheOddnessOfSetBits := by
  refine ⟨⟨runningParity_nil, runningParity_concat⟩, fun k v => ⟨rfl, byteParity_eq_odd_setBits k v, fun o => ?_⟩⟩
  rw [byteParity_eq_odd_setBits, byteParity_eq_odd_setBits]

/-! ### The parity pulse of a byte -/

theorem byteBits_of_parityPulse_none {k : EncConfig} {v : Byte} (h : parityPulse k.parity (byteParity k v) = none) :
    byteBits k v = dataBits k v := by
  rw [byteBits, h, Option.toList_none, List.append_nil]

theorem byteBits_of_parityPulse_some {k : EncConfig} {v : Byte} {b : Bool}
    (h : parityPulse k.parity (byteParity k v) = some b) : byteBits k v = dataBits k v ++ [b] := by
  rw [byteBits, h, Option.toList_some]

/-- Odd parity sends the complement of the running parity (41_encoder R114). -/
theorem byteParity_xor_true (k : EncConfig) (v : Byte) :
    (byteParity k v ^^ true) = decide (setBits k.width.toNat v % 2 = 0) := by
  rw [byteParity_eq_odd_setBits, Bool.xor_true, ← decide_not, decide_eq_decide]
  omega

/-- A parity pulse completes the oddness of a byte's pulses. -/
theorem odd_count_dataBits_concat_iff (k : EncConfig) (v : Byte) (b : Bool) :
    (dataBits k v ++ [b]).count true % 2 = 1 ↔ (byteParity k v ^^ b) = true := by
  rw [byteParity, ← runningParity_concat, runningParity_eq_odd_count, decide_eq_true_eq]

/-- A byte costs its data pulses and the parity pulse its mode has (41_encoder R118). -/
theorem length_byteBits (k : EncConfig) (v : Byte) : (byteBits k v).length = pulsesPerByte k := by
  cases h : k.parity <;> simp [byteBits, pulsesPerByte, parityPulse, h]

/-- Settles O35: each mode names its pulse, and the oddness of the byte's pulses is the running parity with that pulse. -/
theorem parityPulseFollowsTheMode : Obligations.ParityPulseFollowsTheMode := by
  intro k v
  have appended (mode : ParityMode) (b : Bool) (hb : parityPulse mode (byteParity k v) = some b) (h : k.parity = mode) :
      byteBits k v = dataBits k v ++ [b] := byteBits_of_parityPulse_some (h ▸ hb)
  refine ⟨fun h => ?none, appended .mark true rfl, appended .space false rfl, fun h => ?odd, fun h => ?even⟩
  case none => exact byteBits_of_parityPulse_none (by rw [h]; rfl)
  case odd =>
    have hb := appended .odd (byteParity k v ^^ true) rfl h
    refine ⟨hb, by rw [hb, byteParity_xor_true], ?_⟩
    rw [hb, odd_count_dataBits_concat_iff]
    cases byteParity k v <;> rfl
  case even =>
    have hb := appended .even (byteParity k v) rfl h
    refine ⟨hb, by rw [hb, byteParity_eq_odd_setBits], ?_⟩
    rw [hb, ← Nat.mod_two_ne_one, ne_eq, odd_count_dataBits_concat_iff, Bool.xor_self]
    exact Bool.false_ne_true

/-! ### The pulse train of an atomic ENCODE -/

/-- The sink calls of one ENCODE, preamble and start pulse before the bytes, both markers after them (41_encoder R110). -/
theorem encodeCalls_eq (k : EncConfig) (bytes : List Byte) :
    encodeCalls k bytes = List.replicate k.sync.toNat (pulse k false) ++
      pulse k true :: (bytes.flatMap (byteBits k)).map (pulse k) ++ [pulse k false, idleMarker k] := by
  simp only [encodeCalls, encodeBits, List.map_append, List.map_replicate, List.map_cons, List.map_nil,
    List.append_assoc, List.cons_append, List.nil_append]

@[simp] theorem Memory.length_bytes (m : Memory) (base len : Nat) : (Memory.bytes m base len).length = len := by
  simp only [Memory.bytes, List.length_map, List.length_range]

theorem length_flatMap_byteBits (k : EncConfig) (bytes : List Byte) :
    (bytes.flatMap (byteBits k)).length = bytes.length * pulsesPerByte k := by
  induction bytes with
  | nil => simp
  | cons v bytes ih =>
    rw [List.flatMap_cons, List.length_append, ih, length_byteBits, List.length_cons, Nat.succ_mul, Nat.add_comm]

/-- A ready state's Channel Context reads as its configuration (41_encoder R119). -/
theorem EncodeReady.config {base : Addr} {len : BitVec 24} {e : Enc} {k : EncConfig} (h : EncodeReady base len e k) :
    e.config = some k :=
  config_eq_some_iff.mpr ⟨h.times, h.sync, h.width, h.order, h.parity, h.param⟩

/-- What an atomic ENCODE of a ready state appends to `sink_log`. -/
theorem exec_encode_sinkLog {base : Addr} {len : BitVec 24} {s t : State} {k : EncConfig}
    (hseq : s.params.sequenced = false) (hr : EncodeReady base len s.enc k) (h : exec (.encode base len) s = .next t) :
    t.enc.sinkLog = s.enc.sinkLog ++ encodeCalls k (Memory.bytes s.buf base.toNat len.toNat) := by
  obtain ⟨k', -, hk', -, -, rfl⟩ := execEncode_next.mp h
  obtain rfl : k = k' := Option.some.inj (hr.config.symm.trans hk')
  simp only [hseq, Bool.false_eq_true, if_false, encodeAtOnce]

/-- Settles O36: the appended calls are the pulse train, whose tail is the two markers. -/
theorem syncPreambleThenOneStartPulse : Obligations.SyncPreambleThenOneStartPulse := by
  intro base len s t k calls hseq hr h hcalls
  have htrain : calls = encodeCalls k (Memory.bytes s.buf base.toNat len.toNat) :=
    List.append_cancel_left (hcalls.symm.trans (exec_encode_sinkLog hseq hr h))
  rw [encodeCalls_eq] at htrain
  refine ⟨⟨[pulse k false, idleMarker k], htrain, rfl⟩, fun hsync => ?_⟩
  rw [htrain, hsync]
  rfl

/-- Settles O37: the pulse train closes with the two markers, and what precedes them is counted pulse by pulse. -/
theorem endMarkerThenIdleMarker : Obligations.EndMarkerThenIdleMarker := by
  intro base len s t k hseq hr h
  refine ⟨List.replicate k.sync.toNat (pulse k false) ++
    pulse k true :: ((Memory.bytes s.buf base.toNat len.toNat).flatMap (byteBits k)).map (pulse k), ?_, ?_⟩
  · rw [exec_encode_sinkLog hseq hr h, encodeCalls_eq, ← List.append_assoc]
    rfl
  · simp only [List.length_append, List.length_replicate, List.length_cons, List.length_map, length_flatMap_byteBits,
      Memory.length_bytes]
    omega

end Sys2Proof.Machine
end

section
/-! PROOFS. The timeout-compare event and the arms of its handler (spec/42_capture_events.md R140). -/

namespace Sys2Proof.Machine

/-! ### The enabling condition -/

theorem exec_timeoutIsr_of_not_cmpFlag {s : State} (h : s.cap.cmpFlag = false) :
    exec .timeoutIsr s = .refused .notEnabled := by
  change execTimeoutIsr s = _
  rw [execTimeoutIsr, timeoutEnabled, h, if_neg Bool.false_ne_true]

theorem exec_timeoutIsr_of_cmpFlag {s : State} (h : s.cap.cmpFlag = true) :
    exec .timeoutIsr s = .next { s with cap := timeoutBody s.params s.cap } :=
  execTimeoutIsr_next.mpr ⟨h, rfl⟩

/-! ### The arms of the body -/

/-- The race window: an edge latched while the settle window ran is noise (42_capture_events R140). -/
theorem timeoutBody_of_captured_latched {p : Params} {c : Cap} (ho : c.overflow = .captured) (hf : c.capFlag = true) :
    timeoutBody p c = enterReset .resetQuiet (disarmCmp c) := by
  rw [timeoutBody, ho, hf]
  rfl

/-- The settle window ran out quietly: the longer window opens (42_capture_events R140). -/
theorem timeoutBody_of_captured_quiet {p : Params} {c : Cap} (ho : c.overflow = .captured) (hf : c.capFlag = false) :
    timeoutBody p c = { armCmp p p.tIdle (disarmCmp c) with capIe := true, overflow := .armed } := by
  rw [timeoutBody, ho, hf]
  rfl

/-- No edge within the long window (42_capture_events R140). -/
theorem timeoutBody_of_armed {p : Params} {c : Cap} (ho : c.overflow = .armed) :
    timeoutBody p c = enterReset .resetQuiet (disarmCmp c) := by
  rw [timeoutBody, ho]

/-- Settles O49: the compare flag decides whether the handler runs, and the state and the latch decide its arm. -/
theorem timeoutIsrClosesTheWindow : Obligations.TimeoutIsrClosesTheWindow := by
  refine ⟨rfl, fun s => ⟨exec_timeoutIsr_of_not_cmpFlag, fun hc ho hf => ?noise, fun hc ho hf => ?rearm,
    fun hc ho => ?idle⟩⟩
  case noise =>
    rw [exec_timeoutIsr_of_cmpFlag hc, timeoutBody_of_captured_latched ho hf]
    rfl
  case rearm =>
    rw [exec_timeoutIsr_of_cmpFlag hc, timeoutBody_of_captured_quiet ho hf]
    rfl
  case idle =>
    rw [exec_timeoutIsr_of_cmpFlag hc, timeoutBody_of_armed ho]
    rfl

end Sys2Proof.Machine
end

section
/-! PROOFS. What each operation appends to `cap_log`, and the fatal hook among it (spec/10_state.md R48,
spec/60_exceptions.md R180, R181). -/

namespace Sys2Proof.Machine

/-! ### The states EDGE_ISR does not expect -/

/-- The states that do not expect a capture: CAPTURED and the reset states (60_exceptions R181). -/
theorem unexpected_iff {o : Overflow} :
    o = .captured ∨ o = .reset ∨ o = .resetQuiet ∨ o = .resetDisable ∨ o = .resetDisableDeferred ↔
      o ≠ .first ∧ o ≠ .armed := by
  cases o <;> decide

/-- In such a state the handler acknowledges the capture and calls the hook (42_capture_events R139). -/
theorem edgeBody_of_unexpected {p : Params} {c : Cap} (hf : c.overflow ≠ .first) (ha : c.overflow ≠ .armed) :
    edgeBody p c = raiseFatal fatalProtocol { c with capFlag := false } := by
  unfold edgeBody
  split
  · exact absurd ‹_› hf
  · exact absurd ‹_› ha
  all_goals rfl

/-! ### The accepting arms of EDGE_ISR -/

/-- The call an edge makes as it is counted: the transmitter is held off at the threshold (42_capture_events R134). -/
def countCalls (p : Params) (c : Cap) : List CapCall := if hitsThreshold p c.pulseCount then [.writerDisable] else []

theorem fatal_notMem_countCalls {p : Params} {c : Cap} {code : BitVec 8} {info : BitVec 3} :
    .fatal code info ∉ countCalls p c := by
  unfold countCalls
  split <;> simp

theorem edgeFirst_capLog (p : Params) (t : Nat) (c : Cap) : (edgeFirst p t c).capLog = c.capLog ++ countCalls p c := rfl

@[simp] theorem edgeFirst_fatalSeen (p : Params) (t : Nat) (c : Cap) : (edgeFirst p t c).fatalSeen = c.fatalSeen := rfl

/-- Overrun or not, an edge in ARMED is counted the same. -/
theorem edgeArmed_capLog (p : Params) (t : Nat) (l : Bool) (c : Cap) :
    (edgeArmed p t l c).capLog = c.capLog ++ countCalls p c := by
  unfold edgeArmed
  split <;> rfl

@[simp] theorem edgeArmed_fatalSeen (p : Params) (t : Nat) (l : Bool) (c : Cap) :
    (edgeArmed p t l c).fatalSeen = c.fatalSeen := by
  unfold edgeArmed
  split <;> rfl

theorem edgeBody_capLog_of_expected {p : Params} {c : Cap} (h : c.overflow = .first ∨ c.overflow = .armed) :
    (edgeBody p c).capLog = c.capLog ++ countCalls p c := by
  obtain h | h := h
  · simp only [edgeBody, h, edgeFirst_capLog, countCalls]
  · simp only [edgeBody, h, edgeArmed_capLog, countCalls]

theorem edgeBody_fatalSeen_of_expected {p : Params} {c : Cap} (h : c.overflow = .first ∨ c.overflow = .armed) :
    (edgeBody p c).fatalSeen = c.fatalSeen := by
  obtain h | h := h <;> simp only [edgeBody, h, edgeFirst_fatalSeen, edgeArmed_fatalSeen]

/-! ### The bodies and `cap_log` -/

/-- What EDGE_ISR appends to `cap_log`, by the state it finds. -/
def edgeCalls (p : Params) (c : Cap) : List CapCall :=
  if c.overflow = .first ∨ c.overflow = .armed then countCalls p c
  else [.fatal fatalProtocol (overflowCode c.overflow)]

theorem edgeBody_capLog (p : Params) (c : Cap) : (edgeBody p c).capLog = c.capLog ++ edgeCalls p c := by
  unfold edgeCalls
  split
  case isTrue h => exact edgeBody_capLog_of_expected h
  case isFalse h =>
    obtain ⟨hf, ha⟩ := not_or.mp h
    rw [edgeBody_of_unexpected hf ha, raiseFatal_capLog]

/-- EDGE_ISR calls the hook exactly in the states that do not expect a capture (60_exceptions R181). -/
theorem fatal_mem_edgeCalls_iff {p : Params} {c : Cap} {code : BitVec 8} {info : BitVec 3} :
    .fatal code info ∈ edgeCalls p c ↔
      (c.overflow ≠ .first ∧ c.overflow ≠ .armed) ∧ code = fatalProtocol ∧ info = overflowCode c.overflow := by
  unfold edgeCalls
  rw [← not_or]
  split
  case isTrue h => exact iff_of_false fatal_notMem_countCalls fun hn => hn.1 h
  case isFalse h => simp only [List.mem_singleton, CapCall.fatal.injEq, h, not_false_eq_true, true_and]

@[simp] theorem timeoutBody_capLog (p : Params) (c : Cap) : (timeoutBody p c).capLog = c.capLog := by
  unfold timeoutBody
  split
  · split <;> rfl
  all_goals rfl

@[simp] theorem disableBody_capLog (c : Cap) : (disableBody c).capLog = c.capLog := by
  unfold disableBody
  split <;> rfl

@[simp] theorem enableBody_capLog (c : Cap) : (enableBody c).capLog = c.capLog := by
  unfold enableBody
  split
  · rfl
  all_goals exact doReset2_capLog c

/-- What RUN_IVAL appends to `cap_log`: the interval to every decoder, nothing in a reset state (44_deferred_tasks R161). -/
def ivalCalls (p : Params) (c : Cap) : List CapCall :=
  if isResetState c.overflow then []
  else c.decoders.map fun dec => .onInterval dec (readThisInterval p c) (readThisLevel c)

theorem ivalBody_capLog (p : Params) (c : Cap) : (ivalBody p c).capLog = c.capLog ++ ivalCalls p c := by
  unfold ivalBody ivalCalls
  split
  · exact (List.append_nil _).symm
  · rfl

@[simp] theorem reset1Phase_capLog (p : Params) (c : Cap) : (reset1Phase p c).capLog = c.capLog := by
  unfold reset1Phase
  split
  · rfl
  · rfl
  all_goals exact doReset2_capLog c

theorem reset1Body_capLog (p : Params) (c : Cap) : (reset1Body p c).capLog = c.capLog ++ c.decoders.map .onReset :=
  reset1Phase_capLog p _

/-! ### The calls of an operation -/

/-- The calls an operation other than INIT appends to `cap_log`. -/
def capCalls (i : Instr) (s : State) : List CapCall :=
  match i with
  | .edgeIsr => edgeCalls s.params s.cap
  | .runIval => ivalCalls s.params s.cap
  | .runReset1 => s.cap.decoders.map .onReset
  | .runWen => [.writerEnable]
  | .init | .decRegister _ | .ttSetup _ _ | .cfgFormat _ _ _ | .cfgSink _ | .encode _ _ | .lineEdge _ | .tick _
  | .timeoutIsr | .rdDisable | .rdEnable | .frameQueued | .runReset2 => []

/-- Every operation but INIT, which clears it, leaves `cap_log` in place and appends its calls (10_state R48). -/
theorem exec_capLog {i : Instr} {s t : State} (h : exec i s = .next t) (hi : i ≠ .init) :
    t.cap.capLog = s.cap.capLog ++ capCalls i s := by
  cases i with
  | init => exact absurd rfl hi
  | decRegister id => obtain ⟨-, -, rfl⟩ := execDecRegister_next.mp h; exact (List.append_nil _).symm
  | ttSetup sync codes => obtain ⟨-, -, rfl⟩ := execTtSetup_next.mp h; exact (List.append_nil _).symm
  | cfgFormat w order pmode => obtain ⟨-, mode, -, rfl⟩ := execCfgFormat_next.mp h; exact (List.append_nil _).symm
  | cfgSink param => obtain ⟨-, rfl⟩ := execCfgSink_next.mp h; exact (List.append_nil _).symm
  | encode base len => obtain ⟨k, -, -, -, -, rfl⟩ := execEncode_next.mp h; exact (List.append_nil _).symm
  | lineEdge level => obtain rfl := execLineEdge_next.mp h; exact (List.append_nil _).symm
  | tick n => obtain rfl := execTick_next.mp h; simp only [tickBy_capLog, capCalls, List.append_nil]
  | edgeIsr => obtain ⟨-, -, rfl⟩ := execEdgeIsr_next.mp h; exact edgeBody_capLog _ _
  | timeoutIsr => obtain ⟨-, rfl⟩ := execTimeoutIsr_next.mp h; simp only [timeoutBody_capLog, capCalls, List.append_nil]
  | rdDisable => obtain rfl := execRdDisable_next.mp h; simp only [disableBody_capLog, capCalls, List.append_nil]
  | rdEnable => obtain rfl := execRdEnable_next.mp h; simp only [enableBody_capLog, capCalls, List.append_nil]
  | frameQueued => obtain rfl := execFrameQueued_next.mp h; exact (List.append_nil _).symm
  | runIval => obtain ⟨-, rfl⟩ := execRunIval_next.mp h; exact ivalBody_capLog _ _
  | runReset1 => obtain ⟨-, rfl⟩ := execRunReset1_next.mp h; exact reset1Body_capLog _ _
  | runReset2 => obtain ⟨-, rfl⟩ := execRunReset2_next.mp h; simp only [doReset2_capLog, capCalls, List.append_nil]
  | runWen => obtain ⟨-, rfl⟩ := execRunWen_next.mp h; rfl

/-- Only EDGE_ISR calls the hook. -/
theorem eq_edgeIsr_of_fatal_mem_capCalls {i : Instr} {s : State} {code : BitVec 8} {info : BitVec 3}
    (h : .fatal code info ∈ capCalls i s) : i = .edgeIsr := by
  cases i with
  | edgeIsr => rfl
  | runIval =>
    simp only [capCalls, ivalCalls] at h
    split at h <;> simp at h
  | _ => simp [capCalls] at h

/-! ### The fatal condition -/

/-- Under the invariant the capture event is enabled only in the two states that expect it (R213 (a), R214). -/
theorem expected_of_edgeIsr {s t : State} (hs : s.Inv) (h : exec .edgeIsr s = .next t) :
    s.cap.overflow = .first ∨ s.cap.overflow = .armed := by
  obtain ⟨-, hie, -⟩ := execEdgeIsr_next.mp h
  exact hs.cap.captureArmed hie

/-- Settles O19: of the calls an operation appends, only EDGE_ISR's hold a fatal one, in the states it does not expect,
and the invariant masks the capture event there. -/
theorem fatalProtocolOnlyFromUnexpectedCapture : Obligations.FatalProtocolOnlyFromUnexpectedCapture := by
  refine ⟨?source, ?effect, ?unreachable⟩
  case source =>
    intro i s t calls code info h hi hlog hmem
    obtain rfl : calls = capCalls i s := List.append_cancel_left (hlog.symm.trans (exec_capLog h hi))
    obtain rfl := eq_edgeIsr_of_fatal_mem_capCalls hmem
    obtain ⟨hstate, hcode, -⟩ := fatal_mem_edgeCalls_iff.mp hmem
    exact ⟨rfl, hcode, unexpected_iff.mpr hstate⟩
  case effect =>
    intro s t h hf ha
    obtain ⟨-, -, rfl⟩ := execEdgeIsr_next.mp h
    rw [edgeBody_of_unexpected hf ha]
    exact ⟨rfl, raiseFatal_fatalSeen _ _⟩
  case unreachable =>
    intro s t hs h
    have hstate := expected_of_edgeIsr hs h
    obtain ⟨-, -, rfl⟩ := execEdgeIsr_next.mp h
    obtain ⟨hseen, -⟩ := hs.cap.noFatal
    exact ⟨hstate, (edgeBody_fatalSeen_of_expected hstate).trans hseen⟩

end Sys2Proof.Machine
end

section
/-! PROOFS. The decoder and the encoder are inverse, and the opcode map says which words decode (spec/30_encoding.md R80
to R84, R92). -/

namespace Sys2Proof

/-! ### The three fields of a word -/

@[simp] theorem opcField_opWord (o : BitVec 8) (a : BitVec 24) (b : BitVec 32) : opcField (opWord o a b) = o := by
  unfold opcField opWord
  rw [BitVec.extractLsb'_append_eq_of_le (by decide)]
  exact BitVec.extractLsb'_append_eq_left

@[simp] theorem aField_opWord (o : BitVec 8) (a : BitVec 24) (b : BitVec 32) : aField (opWord o a b) = a := by
  unfold aField opWord
  rw [BitVec.extractLsb'_append_eq_of_le (by decide)]
  exact BitVec.extractLsb'_append_eq_right

@[simp] theorem bField_opWord (o : BitVec 8) (a : BitVec 24) (b : BitVec 32) : bField (opWord o a b) = b :=
  BitVec.extractLsb'_append_eq_right

/-- A word is its three fields (30_encoding R80). -/
theorem opWord_fields (w : OpWord) : opWord (opcField w) (aField w) (bField w) = w := by
  unfold opWord opcField aField bField
  rw [BitVec.extractLsb'_append_extractLsb'_eq_extractLsb' (by decide),
    BitVec.extractLsb'_append_extractLsb'_eq_extractLsb' (by decide)]
  exact BitVec.extractLsb'_eq_self

theorem opWord_eq_iff {o : BitVec 8} {a : BitVec 24} {b : BitVec 32} {w : OpWord} :
    opWord o a b = w ↔ opcField w = o ∧ aField w = a ∧ bField w = b := by
  constructor
  · rintro rfl
    simp only [opcField_opWord, aField_opWord, bField_opWord, and_self]
  · rintro ⟨rfl, rfl, rfl⟩
    exact opWord_fields w

/-! ### The operand field `a` of each format -/

/-- Format S: the field is its low byte below sixteen zeros. -/
theorem aField_sync_of_high_zero {a : BitVec 24} (h : a.extractLsb' 8 16 = 0) :
    (0 : BitVec 16) ++ a.extractLsb' 0 8 = a := by
  rw [← h, BitVec.extractLsb'_append_extractLsb'_eq_extractLsb' (by decide)]
  exact BitVec.extractLsb'_eq_self

/-- Format F: the field is its three operands below sixteen zeros. -/
theorem aField_format_of_high_zero {a : BitVec 24} (h : a.extractLsb' 8 16 = 0) :
    (0 : BitVec 16) ++ a.extractLsb' 5 3 ++ a.extractLsb' 4 1 ++ a.extractLsb' 0 4 = a := by
  rw [← h, BitVec.extractLsb'_append_extractLsb'_eq_extractLsb' (by decide),
    BitVec.extractLsb'_append_extractLsb'_eq_extractLsb' (by decide),
    BitVec.extractLsb'_append_extractLsb'_eq_extractLsb' (by decide)]
  exact BitVec.extractLsb'_eq_self

/-- Format L: the field is its low bit below twenty-three zeros. -/
theorem aField_level_of_high_zero {a : BitVec 24} (h : a.extractLsb' 1 23 = 0) :
    (0 : BitVec 23) ++ BitVec.ofBool (a.getLsbD 0) = a := by
  have hbit : BitVec.ofBool (a.getLsbD 0) = a.extractLsb' 0 1 := by
    ext i hi
    obtain rfl : i = 0 := by omega
    simp [BitVec.getLsbD_eq_getElem]
  rw [← h, hbit, BitVec.extractLsb'_append_extractLsb'_eq_extractLsb' (by decide)]
  exact BitVec.extractLsb'_eq_self

/-- The operands of format F read back from the field. -/
theorem format_operands (w : BitVec 4) (order : BitVec 1) (pmode : BitVec 3) :
    ((0 : BitVec 16) ++ pmode ++ order ++ w).extractLsb' 8 16 = 0 ∧
    ((0 : BitVec 16) ++ pmode ++ order ++ w).extractLsb' 0 4 = w ∧
    ((0 : BitVec 16) ++ pmode ++ order ++ w).extractLsb' 4 1 = order ∧
    ((0 : BitVec 16) ++ pmode ++ order ++ w).extractLsb' 5 3 = pmode := by
  refine ⟨?_, BitVec.extractLsb'_append_eq_right, ?_, ?_⟩
  · rw [BitVec.extractLsb'_append_eq_of_le (by decide), BitVec.extractLsb'_append_eq_of_le (by decide)]
    exact BitVec.extractLsb'_append_eq_left
  · rw [BitVec.extractLsb'_append_eq_of_le (by decide)]
    exact BitVec.extractLsb'_append_eq_right
  · rw [BitVec.extractLsb'_append_eq_of_le (by decide), BitVec.extractLsb'_append_eq_of_le (by decide)]
    exact BitVec.extractLsb'_append_eq_right

/-! ### When each format accepts a word -/

theorem ifZero_ok {z : Bool} {w : OpWord} {i j : Instr} : ifZero z w j = .ok i ↔ z = true ∧ j = i := by
  cases z <;> simp [ifZero]

theorem formatZ_ok {w : OpWord} {i j : Instr} : formatZ w j = .ok i ↔ (aField w = 0 ∧ bField w = 0) ∧ j = i := by
  simp only [formatZ, ifZero_ok, Bool.and_eq_true, beq_iff_eq]

theorem formatB_ok {w : OpWord} {f : BitVec 32 → Instr} {i : Instr} :
    formatB w f = .ok i ↔ aField w = 0 ∧ f (bField w) = i := by
  simp only [formatB, ifZero_ok, beq_iff_eq]

theorem formatS_ok {w : OpWord} {f : BitVec 8 → BitVec 32 → Instr} {i : Instr} :
    formatS w f = .ok i ↔ (aField w).extractLsb' 8 16 = 0 ∧ f ((aField w).extractLsb' 0 8) (bField w) = i := by
  simp only [formatS, ifZero_ok, beq_iff_eq]

theorem formatF_ok {w : OpWord} {f : BitVec 4 → BitVec 1 → BitVec 3 → Instr} {i : Instr} :
    formatF w f = .ok i ↔ ((aField w).extractLsb' 8 16 = 0 ∧ bField w = 0) ∧
      f ((aField w).extractLsb' 0 4) ((aField w).extractLsb' 4 1) ((aField w).extractLsb' 5 3) = i := by
  simp only [formatF, ifZero_ok, Bool.and_eq_true, beq_iff_eq]

theorem formatE_ok {w : OpWord} {f : BitVec 32 → BitVec 24 → Instr} {i : Instr} :
    formatE w f = .ok i ↔ f (bField w) (aField w) = i := by
  simp only [formatE, Except.ok.injEq]

theorem formatL_ok {w : OpWord} {f : Bool → Instr} {i : Instr} :
    formatL w f = .ok i ↔ ((aField w).extractLsb' 1 23 = 0 ∧ bField w = 0) ∧ f ((aField w).getLsbD 0) = i := by
  simp only [formatL, ifZero_ok, Bool.and_eq_true, beq_iff_eq]

/-! ### Decode after encode -/

/-- Format Z and format B: the fields of the encoded word pass the format's check. -/
theorem formatZ_opWord (o : BitVec 8) (i : Instr) : formatZ (opWord o 0 0) i = .ok i :=
  formatZ_ok.mpr ⟨⟨aField_opWord o 0 0, bField_opWord o 0 0⟩, rfl⟩

theorem formatB_opWord (o : BitVec 8) (b : BitVec 32) (f : BitVec 32 → Instr) :
    formatB (opWord o 0 b) f = .ok (f b) :=
  formatB_ok.mpr ⟨aField_opWord o 0 b, by rw [bField_opWord]⟩

theorem decode_encode_ttSetup (sync : BitVec 8) (codes : Addr) :
    formatS (encode (.ttSetup sync codes)) .ttSetup = .ok (.ttSetup sync codes) := by
  rw [encode, formatS_ok, aField_opWord, bField_opWord]
  exact ⟨BitVec.extractLsb'_append_eq_left, by rw [BitVec.extractLsb'_append_eq_right]⟩

theorem decode_encode_cfgFormat (w : BitVec 4) (order : BitVec 1) (pmode : BitVec 3) :
    formatF (encode (.cfgFormat w order pmode)) .cfgFormat = .ok (.cfgFormat w order pmode) := by
  obtain ⟨hzero, hw, horder, hpmode⟩ := format_operands w order pmode
  rw [encode, formatF_ok, aField_opWord, bField_opWord, hw, horder, hpmode]
  exact ⟨⟨hzero, rfl⟩, rfl⟩

theorem decode_encode_lineEdge (level : Bool) :
    formatL (encode (.lineEdge level)) .lineEdge = .ok (.lineEdge level) := by
  rw [encode, formatL_ok, aField_opWord, bField_opWord]
  cases level <;> decide

/-- Settles O1: the opcode selects the operation's row, and the row's format reads its operands back. -/
theorem decodeInvertsEncode : Obligations.DecodeInvertsEncode := by
  intro i
  cases i <;> simp only [decode, encode, opcField_opWord]
  case ttSetup sync codes => exact decode_encode_ttSetup sync codes
  case cfgFormat w order pmode => exact decode_encode_cfgFormat w order pmode
  case encode base len => exact formatE_ok.mpr (by rw [aField_opWord, bField_opWord])
  case lineEdge level => exact decode_encode_lineEdge level
  case decRegister id => exact formatB_opWord _ id .decRegister
  case cfgSink param => exact formatB_opWord _ param .cfgSink
  case tick n => exact formatB_opWord _ n .tick
  all_goals exact formatZ_opWord _ _

/-! ### Encode after decode -/

theorem encode_of_formatZ {w : OpWord} {i j : Instr} {o : BitVec 8} (hj : encode j = opWord o 0 0)
    (ho : opcField w = o) (h : formatZ w j = .ok i) : encode i = w := by
  obtain ⟨⟨ha, hb⟩, rfl⟩ := formatZ_ok.mp h
  exact hj.trans (opWord_eq_iff.mpr ⟨ho, ha, hb⟩)

theorem encode_of_formatB {w : OpWord} {i : Instr} {o : BitVec 8} {f : BitVec 32 → Instr}
    (hf : ∀ b, encode (f b) = opWord o 0 b) (ho : opcField w = o) (h : formatB w f = .ok i) : encode i = w := by
  obtain ⟨ha, rfl⟩ := formatB_ok.mp h
  exact (hf _).trans (opWord_eq_iff.mpr ⟨ho, ha, rfl⟩)

theorem encode_of_ttSetup {w : OpWord} {i : Instr} (ho : opcField w = 0x10) (h : formatS w .ttSetup = .ok i) :
    encode i = w := by
  obtain ⟨ha, rfl⟩ := formatS_ok.mp h
  exact opWord_eq_iff.mpr ⟨ho, (aField_sync_of_high_zero ha).symm, rfl⟩

theorem encode_of_cfgFormat {w : OpWord} {i : Instr} (ho : opcField w = 0x11) (h : formatF w .cfgFormat = .ok i) :
    encode i = w := by
  obtain ⟨⟨ha, hb⟩, rfl⟩ := formatF_ok.mp h
  exact opWord_eq_iff.mpr ⟨ho, (aField_format_of_high_zero ha).symm, hb⟩

theorem encode_of_encode {w : OpWord} {i : Instr} (ho : opcField w = 0x18) (h : formatE w .encode = .ok i) :
    encode i = w := by
  obtain rfl := formatE_ok.mp h
  exact opWord_eq_iff.mpr ⟨ho, rfl, rfl⟩

theorem encode_of_lineEdge {w : OpWord} {i : Instr} (ho : opcField w = 0x20) (h : formatL w .lineEdge = .ok i) :
    encode i = w := by
  obtain ⟨⟨ha, hb⟩, rfl⟩ := formatL_ok.mp h
  exact opWord_eq_iff.mpr ⟨ho, (aField_level_of_high_zero ha).symm, hb⟩

/-- Settles O2: in each row of the opcode map the format's check leaves no bit of the word open. -/
theorem decodedWordsEncodeBack : Obligations.DecodedWordsEncodeBack := by
  intro w i h
  have opcode {n : Nat} (hn : (opcField w).toNat = n) : opcField w = BitVec.ofNat 8 n := by
    rw [← hn, BitVec.ofNat_toNat, BitVec.setWidth_eq]
  unfold decode at h
  split at h
  case h_2 ho | h_5 ho | h_8 ho => exact encode_of_formatB (fun _ => rfl) (opcode ho) h
  case h_3 ho => exact encode_of_ttSetup (opcode ho) h
  case h_4 ho => exact encode_of_cfgFormat (opcode ho) h
  case h_6 ho => exact encode_of_encode (opcode ho) h
  case h_7 ho => exact encode_of_lineEdge (opcode ho) h
  case h_18 => cases h
  all_goals exact encode_of_formatZ rfl (opcode ‹_›) h

/-! ### The opcode map -/

open Laws.RowMatch (row opWord_and)

theorem encode_matches_row (i : Instr) : encode i &&& (row i).2 = (row i).1 := by
  cases i with
  | init => exact Laws.RowMatch.init
  | decRegister id => exact Laws.RowMatch.decRegister id
  | ttSetup sync codes => exact Laws.RowMatch.ttSetup sync codes
  | cfgFormat w order pmode => exact Laws.RowMatch.cfgFormat w order pmode
  | cfgSink param => exact Laws.RowMatch.cfgSink param
  | encode base len => exact Laws.RowMatch.encode base len
  | lineEdge level => exact Laws.RowMatch.lineEdge level
  | tick n => exact Laws.RowMatch.tick n
  | edgeIsr => exact Laws.RowMatch.edgeIsr
  | timeoutIsr => exact Laws.RowMatch.timeoutIsr
  | rdDisable => exact Laws.RowMatch.rdDisable
  | rdEnable => exact Laws.RowMatch.rdEnable
  | frameQueued => exact Laws.RowMatch.frameQueued
  | runIval => exact Laws.RowMatch.runIval
  | runReset1 => exact Laws.RowMatch.runReset1
  | runReset2 => exact Laws.RowMatch.runReset2
  | runWen => exact Laws.RowMatch.runWen

/-- The opcode map lists the row of each operation, once. -/
theorem opcodeRows_eq : Machine.opcodeRows =
    [row .init, row (.decRegister 0), row (.ttSetup 0 0), row (.cfgFormat 0 0 0), row (.cfgSink 0), row (.encode 0 0),
     row (.lineEdge false), row (.tick 0), row .edgeIsr, row .timeoutIsr, row .rdDisable, row .rdEnable,
     row .frameQueued, row .runIval, row .runReset1, row .runReset2, row .runWen] := rfl

theorem row_mem_opcodeRows (i : Instr) : row i ∈ Machine.opcodeRows := by
  rw [opcodeRows_eq]
  cases i <;> simp only [row, List.mem_cons, true_or, or_true]

theorem exists_row_of_mem {r : OpWord × OpWord} (h : r ∈ Machine.opcodeRows) : ∃ i, row i = r := by
  rw [opcodeRows_eq] at h
  simp only [List.mem_cons, List.not_mem_nil, or_false] at h
  rcases h with h | h | h | h | h | h | h | h | h | h | h | h | h | h | h | h | h <;> exact ⟨_, h.symm⟩

/-- A word masked to its opcode and to part of its operand fields. -/
theorem and_opWord_eq_iff {w : OpWord} {o : BitVec 8} {am a : BitVec 24} {bm b : BitVec 32} :
    w &&& opWord 0xFF am bm = opWord o a b ↔ opcField w = o ∧ aField w &&& am = a ∧ bField w &&& bm = b := by
  have hop : ∀ o : BitVec 8, o &&& 0xFF = o := fun o => BitVec.and_allOnes
  rw [← opWord_fields (w &&& opWord 0xFF am bm), opWord_eq_iff, opcField_opWord, aField_opWord, bField_opWord]
  conv_lhs => rw [← opWord_fields w, opWord_and, opcField_opWord, aField_opWord, bField_opWord, hop]
  simp only [eq_comm]

/-- Format Z: the mask leaves no bit open. -/
theorem encode_of_full_row {w : OpWord} {i : Instr} (hmask : (row i).2 = BitVec.allOnes 64)
    (h : w &&& (row i).2 = (row i).1) : encode i = w := by
  have hi := encode_matches_row i
  rw [hmask, BitVec.and_allOnes] at h hi
  exact hi.trans h.symm

/-- Format B: the mask leaves the operand `b` open. -/
theorem opWord_of_formatB_row {w : OpWord} {o : BitVec 8} (h : w &&& opWord 0xFF 0xFFFFFF 0 = opWord o 0 0) :
    opWord o 0 (bField w) = w := by
  obtain ⟨ho, ha, -⟩ := and_opWord_eq_iff.mp h
  exact opWord_eq_iff.mpr ⟨ho, BitVec.and_allOnes.symm.trans ha, rfl⟩

/-- Formats S and F: where the sixteen high bits of `a` are masked to zero, they are zero. -/
theorem high_zero_of_masked {a : BitVec 24} (h : a &&& 0xFFFF00 = 0) : a.extractLsb' 8 16 = 0 := by
  have hx := congrArg (BitVec.extractLsb' 8 16) h
  rw [BitVec.extractLsb'_and] at hx
  exact BitVec.and_allOnes.symm.trans hx

/-- Format L: the same for the twenty-three high bits. -/
theorem level_high_zero_of_masked {a : BitVec 24} (h : a &&& 0xFFFFFE = 0) : a.extractLsb' 1 23 = 0 := by
  have hx := congrArg (BitVec.extractLsb' 1 23) h
  rw [BitVec.extractLsb'_and] at hx
  exact BitVec.and_allOnes.symm.trans hx

/-- A word that matches an operation's row is the encoding of that operation, with some operands. -/
theorem exists_encode_of_row {w : OpWord} (i : Instr) (h : w &&& (row i).2 = (row i).1) : ∃ j, encode j = w := by
  cases i
  case decRegister => exact ⟨.decRegister (bField w), opWord_of_formatB_row h⟩
  case cfgSink => exact ⟨.cfgSink (bField w), opWord_of_formatB_row h⟩
  case tick => exact ⟨.tick (bField w), opWord_of_formatB_row h⟩
  case ttSetup =>
    obtain ⟨ho, ha, -⟩ := and_opWord_eq_iff (o := 0x10) (am := 0xFFFF00) (a := 0) (bm := 0) (b := 0) |>.mp h
    exact ⟨_, encode_of_ttSetup ho (formatS_ok.mpr ⟨high_zero_of_masked ha, rfl⟩)⟩
  case cfgFormat =>
    obtain ⟨ho, ha, hb⟩ := and_opWord_eq_iff (o := 0x11) (am := 0xFFFF00) (a := 0) (bm := 0xFFFFFFFF) (b := 0) |>.mp h
    exact ⟨_, encode_of_cfgFormat ho
      (formatF_ok.mpr ⟨⟨high_zero_of_masked ha, BitVec.and_allOnes.symm.trans hb⟩, rfl⟩)⟩
  case encode =>
    obtain ⟨ho, -, -⟩ := and_opWord_eq_iff (o := 0x18) (am := 0) (a := 0) (bm := 0) (b := 0) |>.mp h
    exact ⟨_, encode_of_encode ho (formatE_ok.mpr rfl)⟩
  case lineEdge =>
    obtain ⟨ho, ha, hb⟩ := and_opWord_eq_iff (o := 0x20) (am := 0xFFFFFE) (a := 0) (bm := 0xFFFFFFFF) (b := 0) |>.mp h
    exact ⟨_, encode_of_lineEdge ho
      (formatL_ok.mpr ⟨⟨level_high_zero_of_masked ha, BitVec.and_allOnes.symm.trans hb⟩, rfl⟩)⟩
  all_goals exact ⟨_, encode_of_full_row rfl h⟩

/-- Settles O3: the words of a row are the encodings of its operation. -/
theorem wordDecodesIffItMatchesARow : Obligations.WordDecodesIffItMatchesARow := by
  intro w
  constructor
  · rintro ⟨i, hi⟩
    refine ⟨row i, row_mem_opcodeRows i, ?_⟩
    rw [← decodedWordsEncodeBack w i hi]
    exact encode_matches_row i
  · rintro ⟨r, hr, hw⟩
    obtain ⟨i, rfl⟩ := exists_row_of_mem hr
    obtain ⟨j, rfl⟩ := exists_encode_of_row i hw
    exact ⟨j, decodeInvertsEncode j⟩

/-- Settles O4: the words are closed, and the decoder evaluates on each. -/
theorem specWordsDecodeAsWritten : Obligations.SpecWordsDecodeAsWritten :=
  ⟨rfl, rfl, rfl, rfl, rfl, rfl, rfl, rfl, rfl, rfl, rfl⟩

end Sys2Proof
end

section
/-! PROOFS. What each operation of unit CAP does, arm by arm (spec/42_capture_events.md R130 to R141,
spec/43_requests.md R150 to R154, spec/44_deferred_tasks.md R161 to R165). -/

namespace Sys2Proof.Machine

/-! ### The arms of EDGE_ISR -/

theorem edgeBody_of_first {p : Params} {c : Cap} (ho : c.overflow = .first) : edgeBody p c =
    openSettleWindow p { c with capFlag := false, lastEdgeTime := some (readCapTime p c) } := by
  rw [edgeBody, ho]
  rfl

theorem edgeBody_of_overrun {p : Params} {c : Cap} (ho : c.overflow = .armed) (hi : c.ivalPending = true) :
    edgeBody p c = enterReset .reset (countEdge p { c with capFlag := false }) := by
  simp only [edgeBody, ho, edgeArmed, overrun, hi, if_true]

theorem edgeBody_of_accepted {p : Params} {c : Cap} (ho : c.overflow = .armed) (hi : c.ivalPending = false) :
    edgeBody p c = openSettleWindow p { c with
      capFlag := false
      thisInterval := some (ticksSub p (readCapTime p c) (readLastEdgeTime p c))
      thisLevel := some (readCapLevel c)
      lastEdgeTime := some (readCapTime p c)
      ivalPending := true } := by
  simp only [edgeBody, ho, edgeArmed, overrun, hi, Bool.false_eq_true, if_false]
  rfl

/-- The count of an edge, in the words of 42_capture_events R134. -/
theorem countEdge_eq (p : Params) (c : Cap) : countEdge p c = { c with
    pulseCount := if c.pulseCount = 255 then 255 else c.pulseCount + 1
    capLog := c.capLog ++
      if c.pulseCount ≠ 255 ∧ c.pulseCount + 1 = p.pulseThreshold then [.writerDisable] else [] } := by
  simp only [countEdge, countUp_eq, hitsThreshold_iff]

theorem openSettleWindow_eq (p : Params) (c : Cap) : openSettleWindow p c = { c with
    pulseCount := if c.pulseCount = 255 then 255 else c.pulseCount + 1
    capLog := c.capLog ++
      if c.pulseCount ≠ 255 ∧ c.pulseCount + 1 = p.pulseThreshold then [.writerDisable] else []
    cmp := some ((c.now + p.tSettle) % 2 ^ p.tw)
    cmpArmed := true
    cmpFlag := false
    capIe := false
    overflow := .captured } := by
  rw [openSettleWindow, countEdge_eq]
  rfl

/-- Settles O44: the priming arm is the settle window opened at the captured time. -/
theorem edgeIsrPrimesInFirst : Obligations.EdgeIsrPrimesInFirst := by
  intro s t hf hie ho ht
  refine execEdgeIsr_next.mpr ⟨hf, hie, ?_⟩
  rw [edgeBody_of_first ho, readCapTime_some ht, openSettleWindow_eq]

/-- Settles O45: the accepting arm is the same window, with the interval taken modulo `2^TW`. -/
theorem edgeIsrAcceptsInArmed : Obligations.EdgeIsrAcceptsInArmed := by
  intro s t u l hf hie ho hi ht hl hu hlt
  refine ⟨ticksSub s.params t u, ticksSub_eq_emod hlt, execEdgeIsr_next.mpr ⟨hf, hie, ?_⟩⟩
  rw [edgeBody_of_accepted ho hi, readCapTime_some ht, readCapLevel_some hl, readLastEdgeTime_some hu,
    openSettleWindow_eq]

/-- Settles O46: the overrun arm counts the edge and enters RESET. -/
theorem edgeIsrOverrunEntersReset : Obligations.EdgeIsrOverrunEntersReset := by
  intro s hf hie ho hi
  refine execEdgeIsr_next.mpr ⟨hf, hie, ?_⟩
  rw [edgeBody_of_overrun ho hi, countEdge_eq]
  rfl

/-- Settles O47: each of the five states is unexpected, and `info` is its code. -/
theorem edgeIsrElsewhereReportsFatal : Obligations.EdgeIsrElsewhereReportsFatal := by
  intro s info hf hie hmem
  have hstate : (s.cap.overflow ≠ .first ∧ s.cap.overflow ≠ .armed) ∧ info = overflowCode s.cap.overflow := by
    simp only [List.mem_cons, Prod.mk.injEq, List.not_mem_nil, or_false] at hmem
    rcases hmem with ⟨ho, rfl⟩ | ⟨ho, rfl⟩ | ⟨ho, rfl⟩ | ⟨ho, rfl⟩ | ⟨ho, rfl⟩ <;> simp [ho, overflowCode]
  obtain ⟨⟨hfirst, harmed⟩, rfl⟩ := hstate
  refine execEdgeIsr_next.mpr ⟨hf, hie, ?_⟩
  rw [edgeBody_of_unexpected hfirst harmed]
  rfl

/-! ### LINE_EDGE and the other arm of TIMEOUT_ISR -/

/-- Settles O38: the meaning of LINE_EDGE asks nothing of the state. -/
theorem lineEdgeLatchesInEveryState : Obligations.LineEdgeLatchesInEveryState :=
  fun _ _ => execLineEdge_next.mpr rfl

theorem timeoutBody_of_no_window {p : Params} {c : Cap} (hc : c.overflow ≠ .captured) (ha : c.overflow ≠ .armed) :
    timeoutBody p c = disarmCmp c := by
  unfold timeoutBody
  split
  · exact absurd ‹_› hc
  · exact absurd ‹_› ha
  all_goals rfl

/-- Settles O50: without a window the handler only disarms the compare. -/
theorem timeoutIsrElsewhereOnlyAcknowledges : Obligations.TimeoutIsrElsewhereOnlyAcknowledges := by
  intro s hf hc ha
  rw [exec_timeoutIsr_of_cmpFlag hf, timeoutBody_of_no_window hc ha]
  rfl

/-! ### The owner requests -/

/-- RD_DISABLE in a capturing state enters the reset state that remembers the disable (43_requests R150). -/
theorem disableBody_of_capturing {c : Cap} (h : c.overflow = .first ∨ c.overflow = .armed ∨ c.overflow = .captured) :
    disableBody c = enterReset .resetDisableDeferred c := by
  rcases h with h | h | h <;> rw [disableBody, h]

theorem disableBody_of_resetQuiet {c : Cap} (h : c.overflow = .resetQuiet) :
    disableBody c = { c with overflow := .resetDisableDeferred, reset1Pending := true } := by
  rw [disableBody, h]

theorem disableBody_of_reset {c : Cap} (h : c.overflow = .reset) :
    disableBody c = { c with overflow := .resetDisableDeferred } := by
  rw [disableBody, h]

theorem disableBody_of_disabled {c : Cap} (h : c.overflow = .resetDisableDeferred ∨ c.overflow = .resetDisable) :
    disableBody c = c := by
  rcases h with h | h <;> rw [disableBody, h]

theorem enableBody_of_deferred {c : Cap} (h : c.overflow = .resetDisableDeferred) :
    enableBody c = { c with overflow := .reset } := by
  rw [enableBody, h]

/-- RD_ENABLE in every other state runs the second phase at once, which re-arms capture (43_requests R151). -/
theorem enableBody_rearm {c : Cap} (h : c.overflow ≠ .resetDisableDeferred) : enableBody c = { c with
    reset2Timer := none, capFlag := false, capIe := true, cmpArmed := false, cmpFlag := false, overflow := .first } := by
  rw [← doReset2_rearm h]
  unfold enableBody
  split
  · contradiction
  all_goals rfl

/-- Settles O51: the case analysis of RD_DISABLE, state by state. -/
theorem rdDisableLeavesTheMemo : Obligations.RdDisableLeavesTheMemo := by
  intro s
  refine execRdDisable_next.mpr ?_
  cases ho : s.cap.overflow <;> simp only [disableBody, ho] <;> rfl

/-- Settles O52: RD_ENABLE cancels the memo, or re-arms capture by the second phase. -/
theorem rdEnableCancelsOrRearms : Obligations.RdEnableCancelsOrRearms := by
  refine fun s => ⟨fun ho => execRdEnable_next.mpr ?_, fun ho => execRdEnable_next.mpr ?_⟩
  · rw [enableBody_of_deferred (c := { s.cap with started := true }) ho]
  · rw [enableBody_rearm (c := { s.cap with started := true }) ho]

/-- Settles O53: of two delays FRAME_QUEUED leaves the greater. -/
theorem frameQueuedRaisesTheDelay : Obligations.FrameQueuedRaisesTheDelay := by
  refine fun s => ⟨_, ?_, execFrameQueued_next.mpr rfl⟩
  split <;> omega

/-! ### The deferred tasks -/

theorem ivalBody_of_reset {p : Params} {c : Cap} (h : isResetState c.overflow = true) :
    ivalBody p c = { c with ivalPending := false } := by
  rw [ivalBody, if_pos h]

theorem ivalBody_of_capturing {p : Params} {c : Cap} (h : isResetState c.overflow = false) : ivalBody p c =
    dispatchInterval (readThisInterval p c) (readThisLevel c) { c with ivalPending := false } := by
  rw [ivalBody, h, if_neg Bool.false_ne_true]

/-- Settles O55: the state decides between delivery and discard. -/
theorem runIvalDeliversOrDiscards : Obligations.RunIvalDeliversOrDiscards := by
  intro s d l hp hd hl
  refine execRunIval_next.mpr ⟨hp, ?_⟩
  cases ho : s.cap.overflow
  case reset | resetQuiet | resetDisable | resetDisableDeferred =>
    simp only [ivalBody_of_reset (show isResetState s.cap.overflow = true by rw [ho]; rfl), ho]
  case first | armed | captured =>
    rw [ivalBody_of_capturing (by rw [ho]; rfl), readThisInterval_some hd, readThisLevel_some hl]
    simp only [dispatchInterval, ho]

/-- How the first phase begins in every state: both tasks are taken and the reset is broadcast (44_deferred_tasks R162). -/
def reset1Start (c : Cap) : Cap := broadcastReset { c with reset1Pending := false, ivalPending := false }

theorem reset1Body_eq (p : Params) (c : Cap) : reset1Body p c = reset1Counters p (reset1Phase p (reset1Start c)) := rfl

/-- What the first phase does in every state: its broadcast, the pending interval discarded, and its counters
(44_deferred_tasks R162). -/
def reset1Common (p : Params) (c : Cap) : Cap := reset1Counters p (reset1Start c)

/-- RESET: the second phase is scheduled after the quiet delay (44_deferred_tasks R162). -/
theorem reset1Phase_of_reset {p : Params} {c : Cap} (h : c.overflow = .reset) :
    reset1Phase p c = { c with reset2Timer := some p.tResetQuiet } := by
  rw [reset1Phase, h]

/-- RESET_DISABLE_DEFERRED: the disable is finalised (44_deferred_tasks R162). -/
theorem reset1Phase_of_deferred {p : Params} {c : Cap} (h : c.overflow = .resetDisableDeferred) :
    reset1Phase p c = { c with overflow := .resetDisable } := by
  rw [reset1Phase, h]

/-- In every other state the second phase follows at once and re-arms capture (44_deferred_tasks R162). -/
theorem reset1Phase_rearm {p : Params} {c : Cap} (hr : c.overflow ≠ .reset) (hd : c.overflow ≠ .resetDisableDeferred) :
    reset1Phase p c = { c with
      reset2Timer := none, capFlag := false, capIe := true, cmpArmed := false, cmpFlag := false, overflow := .first } := by
  rw [← doReset2_rearm hd]
  unfold reset1Phase
  split
  · contradiction
  · contradiction
  all_goals rfl

theorem reset1Body_of_reset {p : Params} {c : Cap} (h : c.overflow = .reset) :
    reset1Body p c = { reset1Common p c with reset2Timer := some p.tResetQuiet } := by
  rw [reset1Body_eq, reset1Phase_of_reset (c := reset1Start c) h]
  rfl

theorem reset1Body_of_deferred {p : Params} {c : Cap} (h : c.overflow = .resetDisableDeferred) :
    reset1Body p c = { reset1Common p c with overflow := .resetDisable } := by
  rw [reset1Body_eq, reset1Phase_of_deferred (c := reset1Start c) h]
  rfl

theorem reset1Body_rearm {p : Params} {c : Cap} (hr : c.overflow ≠ .reset) (hd : c.overflow ≠ .resetDisableDeferred) :
    reset1Body p c = { reset1Common p c with
      reset2Timer := none, capFlag := false, capIe := true, cmpArmed := false, cmpFlag := false, overflow := .first } := by
  rw [reset1Body_eq, reset1Phase_rearm (c := reset1Start c) hr hd]
  rfl

theorem reset1Common_eq (p : Params) (c : Cap) : reset1Common p c = { c with
    reset1Pending := false
    ivalPending := false
    capLog := c.capLog ++ c.decoders.map .onReset
    wenTimer := if p.pulseThreshold.toNat ≤ c.pulseCount.toNat then some c.enableDelay else c.wenTimer
    pulseCount := 0
    enableDelay := p.enableDelayDefault } := by
  simp only [reset1Common, reset1Counters, thresholdReached, decide_eq_true_eq]
  rfl

/-- Settles O56: the common part of the first phase, then the arm of the state. -/
theorem runReset1DoesTheFirstPhase : Obligations.RunReset1DoesTheFirstPhase := by
  intro s hp
  refine ⟨reset1Common s.params s.cap, reset1Common_eq _ _, execRunReset1_next.mpr ⟨hp, ?_⟩⟩
  cases ho : s.cap.overflow
  case reset => rw [reset1Body_of_reset ho]
  case resetDisableDeferred => rw [reset1Body_of_deferred ho]
  all_goals rw [reset1Body_rearm (by simp [ho]) (by simp [ho])]

/-- Settles O57: the two arms of the second phase. -/
theorem runReset2DoesTheSecondPhase : Obligations.RunReset2DoesTheSecondPhase := by
  refine fun s ht => ⟨fun ho => execRunReset2_next.mpr ⟨ht, ?_⟩, fun ho => execRunReset2_next.mpr ⟨ht, ?_⟩⟩
  · rw [doReset2_deferred ho]
  · rw [doReset2_rearm ho]

/-- Settles O58: RUN_WEN asks only for its timer. -/
theorem runWenReleasesTheTransmitter : Obligations.RunWenReleasesTheTransmitter :=
  fun _ ht => execRunWen_next.mpr ⟨ht, rfl⟩

end Sys2Proof.Machine
end

section
/-! PROOFS. The invariants of unit CAP are kept by every operation (spec/70_reset_and_hazards.md R213). -/

namespace Sys2Proof.Machine

variable {p : Params} {c : Cap}

/-! ### What the invariant says of the reset work -/

/-- Outside RESET and RESET_DISABLE_DEFERRED no second phase is scheduled (f). -/
theorem Cap.Inv.reset2Timer_eq_none (h : Cap.Inv p c) (hr : c.overflow ≠ .reset)
    (hd : c.overflow ≠ .resetDisableDeferred) : c.reset2Timer = none :=
  not_not.mp fun ht => (h.secondPhase ht).1.elim hr hd

/-- While the first phase is pending no second phase is scheduled (f). -/
theorem Cap.Inv.reset2Timer_eq_none_of_pending (h : Cap.Inv p c) (hp : c.reset1Pending = true) :
    c.reset2Timer = none :=
  not_not.mp fun ht => Bool.false_ne_true ((h.secondPhase ht).2.symm.trans hp)

/-- Outside FIRST and ARMED the capture event is masked (a). -/
theorem Cap.Inv.capIe_eq_false (h : Cap.Inv p c) (hf : c.overflow ≠ .first) (ha : c.overflow ≠ .armed) :
    c.capIe = false :=
  Bool.not_eq_true _ ▸ fun hie => (h.captureArmed hie).elim hf ha

/-- Outside CAPTURED and ARMED no window runs (i). -/
theorem Cap.Inv.no_window (h : Cap.Inv p c) (hc : c.overflow ≠ .captured) (ha : c.overflow ≠ .armed) :
    c.cmpArmed = false ∧ c.cmpFlag = false := by
  constructor
  · exact Bool.not_eq_true _ ▸ fun hw => (h.windowRunning (.inl hw)).elim hc ha
  · exact Bool.not_eq_true _ ▸ fun hw => (h.windowRunning (.inr hw)).elim hc ha

/-! ### Calls on `cap_log` -/

/-- A call that is not the fatal hook may be logged. -/
theorem Cap.Inv.log {calls : List CapCall} (h : Cap.Inv p c) (hcalls : ∀ code info, .fatal code info ∉ calls) :
    Cap.Inv p { c with capLog := c.capLog ++ calls } :=
  { h with
    noFatal := ⟨h.noFatal.1, fun code info hmem =>
      (List.mem_append.mp hmem).elim (h.noFatal.2 code info) (hcalls code info)⟩ }

theorem Cap.Inv.broadcastReset (h : Cap.Inv p c) : Cap.Inv p (broadcastReset c) := h.log (by simp)

theorem Cap.Inv.dispatchInterval (h : Cap.Inv p c) (d : Nat) (l : Bool) : Cap.Inv p (dispatchInterval d l c) :=
  h.log (by simp)

theorem Cap.Inv.countEdge (h : Cap.Inv p c) : Cap.Inv p (countEdge p c) :=
  { h.log (calls := countCalls p c) fun _ _ => fatal_notMem_countCalls with }

/-! ### The reset states -/

/-- A reset state with the first phase pending may be entered wherever no second phase is scheduled. -/
theorem Cap.Inv.enterReset {o : Overflow} (h : Cap.Inv p c) (ht : c.reset2Timer = none)
    (ho : o = .reset ∨ o = .resetQuiet ∨ o = .resetDisableDeferred) : Cap.Inv p (enterReset o c) :=
  { h with
    captureArmed := nofun
    capturedWindow := by rintro rfl; simp at ho
    armedWindow := by rintro rfl; simp at ho
    firstArmed := by rintro rfl; simp at ho
    resetWorkPending := fun _ => .inl rfl
    secondPhase := fun hn => absurd ht hn
    suspendedStable := by rintro rfl; simp at ho
    quietPending := fun _ => rfl
    windowRunning := by simp
    flagArmed := nofun
    cmpWritten := nofun
    lastEdgeWritten := by rintro (rfl | rfl) <;> simp at ho }

/-- Capture may be re-armed at FIRST from every state, started or not. -/
theorem Cap.Inv.rearm (h : Cap.Inv p c) (started : Bool) : Cap.Inv p { c with
    started := started, reset2Timer := none, capFlag := false, capIe := true, cmpArmed := false, cmpFlag := false,
    overflow := .first } :=
  { h with
    captureArmed := fun _ => .inl rfl
    capturedWindow := nofun
    armedWindow := nofun
    firstArmed := fun _ _ => rfl
    resetWorkPending := by simp
    secondPhase := fun hn => absurd rfl hn
    suspendedStable := nofun
    quietPending := nofun
    windowRunning := by simp
    flagArmed := nofun
    latchWritten := nofun
    cmpWritten := nofun
    lastEdgeWritten := by simp }

/-- A remembered disable may be finalised with no reset work left. -/
theorem Cap.Inv.suspend {pending : Bool} {timer : Option (BitVec 16)} (h : Cap.Inv p c)
    (ho : c.overflow = .resetDisableDeferred) (hp : pending = false) (ht : timer = none) : Cap.Inv p { c with
      overflow := .resetDisable, reset1Pending := pending, reset2Timer := timer } := by
  have hie := h.capIe_eq_false (by simp [ho]) (by simp [ho])
  have hw := h.no_window (by simp [ho]) (by simp [ho])
  exact { h with
    captureArmed := by simp [hie]
    capturedWindow := nofun
    armedWindow := nofun
    firstArmed := nofun
    resetWorkPending := by simp
    secondPhase := fun hn => absurd ht hn
    suspendedStable := fun _ => ⟨hp, ht⟩
    quietPending := nofun
    windowRunning := by simp [hw]
    lastEdgeWritten := by simp }

/-! ### EDGE_ISR -/

/-- An accepted edge opens the settle window from FIRST or ARMED. -/
theorem Cap.Inv.openSettleWindow (h : Cap.Inv p c) (ho : c.overflow = .first ∨ c.overflow = .armed)
    (hlast : c.lastEdgeTime ≠ none) : Cap.Inv p (openSettleWindow p c) := by
  have ht : c.reset2Timer = none := h.reset2Timer_eq_none (by rcases ho with ho | ho <;> simp [ho])
    (by rcases ho with ho | ho <;> simp [ho])
  obtain ⟨hnow, hl, hi, hcap, -⟩ := h.timeFits
  exact { h.countEdge with
    captureArmed := nofun
    capturedWindow := fun _ => rfl
    armedWindow := nofun
    firstArmed := nofun
    resetWorkPending := by simp [Machine.openSettleWindow]
    secondPhase := fun hn => absurd ht hn
    suspendedStable := nofun
    quietPending := nofun
    windowRunning := fun _ => .inl rfl
    flagArmed := fun _ => rfl
    cmpWritten := fun _ => Option.some_ne_none _
    lastEdgeWritten := fun _ => hlast
    timeFits := ⟨hnow, hl, hi, hcap, fun _ hx => Option.some.inj hx ▸ ticksAdd_lt p c.now p.tSettle⟩ }

theorem Cap.Inv.clearFlag (h : Cap.Inv p c) : Cap.Inv p { c with capFlag := false } := { h with latchWritten := nofun }

/-- EDGE_ISR keeps the invariant: (a) leaves only its two expected states. -/
theorem Cap.Inv.edgeBody (h : Cap.Inv p c) (hie : c.capIe = true) : Cap.Inv p (edgeBody p c) := by
  obtain ⟨hnow, -, hi, hcap, hcmp⟩ := h.timeFits
  have hlast : BoundedBy (2 ^ p.tw) (some (readCapTime p c)) := fun _ hx => Option.some.inj hx ▸ readCapTime_lt hcap
  rcases h.captureArmed hie with ho | ho
  · rw [edgeBody_of_first ho]
    exact Cap.Inv.openSettleWindow
      { h.clearFlag with
        lastEdgeWritten := fun _ => Option.some_ne_none _
        timeFits := ⟨hnow, hlast, hi, hcap, hcmp⟩ } (.inl ho) (Option.some_ne_none _)
  · cases hp : c.ivalPending
    case true =>
      rw [edgeBody_of_overrun ho hp]
      exact h.clearFlag.countEdge.enterReset (h.reset2Timer_eq_none (by simp [ho]) (by simp [ho])) (.inl rfl)
    case false =>
      rw [edgeBody_of_accepted ho hp]
      exact Cap.Inv.openSettleWindow
        { h.clearFlag with
          lastEdgeWritten := fun _ => Option.some_ne_none _
          intervalWritten := fun _ => ⟨Option.some_ne_none _, Option.some_ne_none _⟩
          timeFits := ⟨hnow, hlast, fun _ hx => Option.some.inj hx ▸ ticksSub_lt _ _ _, hcap, hcmp⟩ }
        (.inr ho) (Option.some_ne_none _)

/-! ### TIMEOUT_ISR -/

/-- TIMEOUT_ISR keeps the invariant: (i) leaves only the two states with a window. -/
theorem Cap.Inv.timeoutBody (h : Cap.Inv p c) (hf : c.cmpFlag = true) : Cap.Inv p (timeoutBody p c) := by
  have quiet (ho : c.overflow = .captured ∨ c.overflow = .armed) : Cap.Inv p (Machine.enterReset .resetQuiet c) :=
    h.enterReset (h.reset2Timer_eq_none (by rcases ho with ho | ho <;> simp [ho])
      (by rcases ho with ho | ho <;> simp [ho])) (.inr (.inl rfl))
  rcases h.windowRunning (.inr hf) with ho | ho
  · by_cases hcap : c.capFlag = true
    · rw [timeoutBody_of_captured_latched ho hcap]
      exact quiet (.inl ho)
    · rw [timeoutBody_of_captured_quiet ho (Bool.not_eq_true _ ▸ hcap)]
      have ht := h.reset2Timer_eq_none (by simp [ho]) (by simp [ho])
      obtain ⟨hnow, hl, hi, hcap, -⟩ := h.timeFits
      exact { h with
        captureArmed := fun _ => .inr rfl
        capturedWindow := nofun
        armedWindow := fun _ => ⟨rfl, rfl⟩
        firstArmed := nofun
        resetWorkPending := by simp
        secondPhase := fun hn => absurd ht hn
        suspendedStable := nofun
        quietPending := nofun
        windowRunning := fun _ => .inr rfl
        flagArmed := fun _ => rfl
        cmpWritten := fun _ => Option.some_ne_none _
        lastEdgeWritten := fun _ => h.lastEdgeWritten (.inl ho)
        timeFits := ⟨hnow, hl, hi, hcap, fun _ hx => Option.some.inj hx ▸ ticksAdd_lt p c.now p.tIdle⟩ }
  · rw [timeoutBody_of_armed ho]
    exact quiet (.inr ho)

/-! ### Owner requests -/

/-- The decoder list may be closed outside FIRST. -/
theorem Cap.Inv.close (h : Cap.Inv p c) (hf : c.overflow ≠ .first) : Cap.Inv p { c with started := true } :=
  { h with firstArmed := fun ho => absurd ho hf }

/-- In a reset state a disable may be remembered, the first phase being pending or the second scheduled. -/
theorem Cap.Inv.defer {pending : Bool} (h : Cap.Inv p c) (hr : c.overflow = .reset ∨ c.overflow = .resetQuiet)
    (hp : pending = true ∨ c.reset2Timer ≠ none) (hs : c.reset2Timer ≠ none → pending = false) :
    Cap.Inv p { c with overflow := .resetDisableDeferred, reset1Pending := pending } := by
  have hie := h.capIe_eq_false (by rcases hr with hr | hr <;> simp [hr]) (by rcases hr with hr | hr <;> simp [hr])
  have hw := h.no_window (by rcases hr with hr | hr <;> simp [hr]) (by rcases hr with hr | hr <;> simp [hr])
  exact { h with
    captureArmed := by simp [hie]
    capturedWindow := nofun
    armedWindow := nofun
    firstArmed := nofun
    resetWorkPending := fun _ => hp
    secondPhase := fun hn => ⟨.inr rfl, hs hn⟩
    suspendedStable := nofun
    quietPending := nofun
    windowRunning := by simp [hw]
    lastEdgeWritten := by simp }

/-- The case analysis of RD_DISABLE does not look at `started`. -/
theorem disableBody_started (c : Cap) (started : Bool) :
    disableBody { c with started := started } = { disableBody c with started := started } := by
  cases ho : c.overflow <;> simp only [disableBody, ho] <;> rfl

theorem disableBody_overflow_ne_first (c : Cap) : (disableBody c).overflow ≠ .first := by
  cases ho : c.overflow <;> simp [disableBody, ho]

theorem Cap.Inv.disableBody (h : Cap.Inv p c) : Cap.Inv p (disableBody { c with started := true }) := by
  rw [disableBody_started]
  refine Cap.Inv.close ?_ (disableBody_overflow_ne_first c)
  have entered (ho : c.overflow = .first ∨ c.overflow = .armed ∨ c.overflow = .captured) :
      Cap.Inv p (Machine.disableBody c) := by
    rw [disableBody_of_capturing ho]
    refine h.enterReset (h.reset2Timer_eq_none ?_ ?_) (.inr (.inr rfl)) <;> rcases ho with ho | ho | ho <;> simp [ho]
  cases ho : c.overflow
  case first => exact entered (.inl ho)
  case armed => exact entered (.inr (.inl ho))
  case captured => exact entered (.inr (.inr ho))
  case resetQuiet =>
    have ht := h.reset2Timer_eq_none_of_pending (h.quietPending ho)
    rw [disableBody_of_resetQuiet ho]
    exact h.defer (.inr ho) (.inl rfl) (absurd ht)
  case reset =>
    rw [disableBody_of_reset ho]
    exact h.defer (.inl ho) (h.resetWorkPending (.inl ho)) fun hn => (h.secondPhase hn).2
  case resetDisableDeferred | resetDisable =>
    rw [disableBody_of_disabled (by simp [ho])]
    exact h

/-- A remembered disable may be cancelled: RESET asks for the same reset work. -/
theorem Cap.Inv.undefer (h : Cap.Inv p c) (ho : c.overflow = .resetDisableDeferred) :
    Cap.Inv p { c with overflow := .reset } := by
  have hie := h.capIe_eq_false (by simp [ho]) (by simp [ho])
  have hw := h.no_window (by simp [ho]) (by simp [ho])
  exact { h with
    captureArmed := by simp [hie]
    capturedWindow := nofun
    armedWindow := nofun
    firstArmed := nofun
    resetWorkPending := fun _ => h.resetWorkPending (.inr (.inr ho))
    secondPhase := fun hn => ⟨.inl rfl, (h.secondPhase hn).2⟩
    suspendedStable := nofun
    quietPending := nofun
    windowRunning := by simp [hw]
    lastEdgeWritten := by simp }

theorem Cap.Inv.enableBody (h : Cap.Inv p c) : Cap.Inv p (enableBody { c with started := true }) := by
  by_cases ho : c.overflow = .resetDisableDeferred
  · rw [enableBody_of_deferred (c := { c with started := true }) ho]
    exact (h.undefer ho).close nofun
  · rw [enableBody_rearm (c := { c with started := true }) ho]
    exact h.rearm true

theorem Cap.Inv.frameQueued (h : Cap.Inv p c) : Cap.Inv p { c with enableDelay :=
    if c.enableDelay.toNat < p.enableDelayBusy.toNat then p.enableDelayBusy else c.enableDelay } :=
  { h with
    delayLevels := by
      split
      · exact .inr rfl
      · exact h.delayLevels }

/-! ### The deferred tasks -/

theorem Cap.Inv.takeInterval (h : Cap.Inv p c) : Cap.Inv p { c with ivalPending := false } :=
  { h with intervalWritten := nofun }

theorem Cap.Inv.ivalBody (h : Cap.Inv p c) : Cap.Inv p (ivalBody p c) := by
  cases hr : isResetState c.overflow
  case true =>
    rw [ivalBody_of_reset hr]
    exact h.takeInterval
  case false =>
    rw [ivalBody_of_capturing hr]
    exact h.takeInterval.dispatchInterval _ _

theorem Cap.Inv.reset1Counters (h : Cap.Inv p c) : Cap.Inv p (reset1Counters p c) := { h with delayLevels := .inl rfl }

/-- RESET with its first phase done: the second phase is scheduled. -/
theorem Cap.Inv.scheduleSecond (h : Cap.Inv p c) (ho : c.overflow = .reset) (q : BitVec 16) : Cap.Inv p { c with
    reset1Pending := false, reset2Timer := some q } :=
  { h with
    resetWorkPending := fun _ => .inr (Option.some_ne_none q)
    secondPhase := fun _ => ⟨.inl ho, rfl⟩
    suspendedStable := fun hd => absurd (ho.symm.trans hd) nofun
    quietPending := fun hq => absurd (ho.symm.trans hq) nofun }

/-- FIRST needs no first phase. -/
theorem Cap.Inv.dropFirst (h : Cap.Inv p c) (ho : c.overflow = .first) : Cap.Inv p { c with reset1Pending := false } :=
  { h with
    resetWorkPending := by simp [ho]
    secondPhase := fun hn => ⟨(h.secondPhase hn).1, rfl⟩
    suspendedStable := by simp [ho]
    quietPending := by simp [ho] }

/-- RUN_RESET1 keeps the invariant: the arm of each state first, then the common part. -/
theorem Cap.Inv.reset1Body (h : Cap.Inv p c) (hp : c.reset1Pending = true) : Cap.Inv p (reset1Body p c) := by
  by_cases hr : c.overflow = .reset
  · rw [reset1Body_of_reset hr]
    exact (h.scheduleSecond hr p.tResetQuiet).takeInterval.broadcastReset.reset1Counters
  · by_cases hd : c.overflow = .resetDisableDeferred
    · have ht := h.reset2Timer_eq_none_of_pending hp
      rw [reset1Body_of_deferred hd]
      exact { (h.suspend hd rfl ht).takeInterval.broadcastReset.reset1Counters with }
    · rw [reset1Body_rearm hr hd]
      exact { ((h.rearm c.started).dropFirst rfl).takeInterval.broadcastReset.reset1Counters with }

/-- The second phase keeps the invariant where it was scheduled. -/
theorem Cap.Inv.doReset2 (h : Cap.Inv p c) (ht : c.reset2Timer ≠ none) : Cap.Inv p (doReset2 c) := by
  by_cases hd : c.overflow = .resetDisableDeferred
  · rw [doReset2_deferred hd]
    exact { h.suspend hd (h.secondPhase ht).2 rfl with }
  · rw [doReset2_rearm hd]
    exact h.rearm c.started

/-! ### Registration, LINE_EDGE and time -/

theorem Cap.Inv.decRegister (h : Cap.Inv p c) (id : DecoderId) (hfit : c.decoders.length < p.ndecMax) :
    Cap.Inv p { c with decoders := c.decoders ++ [id] } :=
  { h with decodersFit := by simpa using hfit }

theorem Cap.Inv.lineEdge (h : Cap.Inv p c) (level : Bool) :
    Cap.Inv p { c with capTime := some c.now, capLevel := some level, capFlag := true } := by
  obtain ⟨hnow, hl, hi, -, hcmp⟩ := h.timeFits
  exact { h with
    latchWritten := fun _ => ⟨Option.some_ne_none _, Option.some_ne_none _⟩
    timeFits := ⟨hnow, hl, hi, fun _ hx => Option.some.inj hx ▸ hnow, hcmp⟩ }

@[simp] theorem countdown_eq_none {n : Nat} {t : Option (BitVec 16)} : countdown n t = none ↔ t = none :=
  Option.map_eq_none_iff

/-- The passage of time raises the compare flag only while the compare is armed, and starts or ends no timer. -/
theorem Cap.Inv.tickBy (h : Cap.Inv p c) (n : Nat) : Cap.Inv p (tickBy p n c) := by
  cases n with
  | zero => exact h
  | succ n =>
    have harmed (hf : (c.cmpFlag || compareHit p (n + 1) c) = true) : c.cmpArmed = true := by
      rcases Bool.or_eq_true_iff.mp hf with hf | hf
      · exact h.flagArmed hf
      · exact (Bool.and_eq_true_iff.mp hf).1
    rw [tickBy_succ]
    exact { h with
      resetWorkPending := fun ho => (h.resetWorkPending ho).imp_right fun hn => by simpa using hn
      secondPhase := fun hn => h.secondPhase (by simpa using hn)
      suspendedStable := fun ho => ⟨(h.suspendedStable ho).1, by simp [(h.suspendedStable ho).2]⟩
      windowRunning := fun hw => h.windowRunning (.inl (hw.elim id harmed))
      flagArmed := harmed
      timeFits := ⟨ticksAdd_lt p c.now (n + 1), h.timeFits.2⟩ }

/-- The reset values meet the invariants of unit CAP. -/
theorem Cap.Inv.reset (p : Params) (epoch : Nat) : Cap.Inv p (Cap.reset p epoch) := by
  constructor <;> simp [Cap.reset, BoundedBy]

/-- Every operation keeps the invariants of unit CAP. -/
theorem Cap.Inv.exec {i : Instr} {s t : State} (hc : Cap.Inv s.params s.cap) (h : exec i s = .next t) :
    Cap.Inv t.params t.cap := by
  cases i with
  | init => obtain rfl := execInit_next.mp h; exact Cap.Inv.reset _ _
  | decRegister id => obtain ⟨-, hfit, rfl⟩ := execDecRegister_next.mp h; exact hc.decRegister id hfit
  | ttSetup sync codes => obtain ⟨-, -, rfl⟩ := execTtSetup_next.mp h; exact hc
  | cfgFormat w order pmode => obtain ⟨-, mode, -, rfl⟩ := execCfgFormat_next.mp h; exact hc
  | cfgSink param => obtain ⟨-, rfl⟩ := execCfgSink_next.mp h; exact hc
  | encode base len => obtain ⟨k, -, -, -, -, rfl⟩ := execEncode_next.mp h; exact hc
  | lineEdge level => obtain rfl := execLineEdge_next.mp h; exact hc.lineEdge level
  | tick n => obtain rfl := execTick_next.mp h; exact hc.tickBy _
  | edgeIsr => obtain ⟨-, hie, rfl⟩ := execEdgeIsr_next.mp h; exact hc.edgeBody hie
  | timeoutIsr => obtain ⟨hf, rfl⟩ := execTimeoutIsr_next.mp h; exact hc.timeoutBody hf
  | rdDisable => obtain rfl := execRdDisable_next.mp h; exact hc.disableBody
  | rdEnable => obtain rfl := execRdEnable_next.mp h; exact hc.enableBody
  | frameQueued => obtain rfl := execFrameQueued_next.mp h; exact hc.frameQueued
  | runIval => obtain ⟨-, rfl⟩ := execRunIval_next.mp h; exact hc.ivalBody
  | runReset1 => obtain ⟨hp, rfl⟩ := execRunReset1_next.mp h; exact hc.reset1Body hp
  | runReset2 =>
    obtain ⟨ht, rfl⟩ := execRunReset2_next.mp h
    exact hc.doReset2 (ht ▸ Option.some_ne_none _)
  | runWen => obtain ⟨-, rfl⟩ := execRunWen_next.mp h; exact { hc.log (calls := [.writerEnable]) (by simp) with }

end Sys2Proof.Machine
end

section
/-! PROOFS. The invariants of unit ENC and of the machine are kept by every step, and under them no step faults
(spec/70_reset_and_hazards.md R213, spec/41_encoder.md R119, R120). -/

namespace Sys2Proof.Machine

/-! ### The turns of the sequencer, phase by phase -/

theorem sequence_sync {k : EncConfig} {m : Memory} {e : Enc} (h : e.phase = .sync) : sequence k m e = .ok { e with
    syncLeft := e.syncLeft - 1
    sinkLog := e.sinkLog ++ [pulse k false]
    phase := if e.syncLeft - 1 = 0 then .start else .sync } := by
  rw [sequence, h]
  by_cases h0 : e.syncLeft - 1 = 0
  · simp only [emitCall, h0, if_true]
  · simp only [emitCall, h0, if_false]

/-- The start pulse of an empty buffer: the end marker is next. -/
theorem sequence_start_empty {k : EncConfig} {m : Memory} {e : Enc} (h : e.phase = .start) (hlen : e.len = 0) :
    sequence k m e = .ok { emitCall (pulse k true) e with phase := .endMark } := by
  rw [sequence, h]
  simp only [hlen, if_true]

/-- The start pulse, and the read of the first byte. -/
theorem sequence_start {k : EncConfig} {m : Memory} {e : Enc} (h : e.phase = .start) (hlen : e.len ≠ 0) :
    sequence k m e = beginByte m { emitCall (pulse k true) e with byteIdx := 0 } := by
  rw [sequence, h]
  simp only [hlen, if_false]

/-- What a data pulse leaves before the sequencer looks whether it was the byte's last (41_encoder R120). -/
def dataSent (k : EncConfig) (e : Enc) : Enc :=
  emitCall (pulse k (dataBit k e.byte e.bitCnt.toNat))
    { e with par := e.par ^^ dataBit k e.byte e.bitCnt.toNat, bitCnt := e.bitCnt + 1 }

theorem sequence_data {k : EncConfig} {m : Memory} {e : Enc} (h : e.phase = .data) : sequence k m e =
    if e.bitCnt + 1 = k.width then
      if k.parity = .none then nextByte m (dataSent k e) else .ok { dataSent k e with phase := .parity }
    else .ok (dataSent k e) := by
  simp only [sequence, dataSent, emitCall, h]

/-- A data pulse that is not the byte's last. -/
theorem sequence_data_more {k : EncConfig} {m : Memory} {e : Enc} (h : e.phase = .data) (hw : e.bitCnt + 1 ≠ k.width) :
    sequence k m e = .ok (dataSent k e) := by
  rw [sequence_data h, if_neg hw]

/-- The last data pulse of a byte that has a parity pulse. -/
theorem sequence_data_parity {k : EncConfig} {m : Memory} {e : Enc} (h : e.phase = .data) (hw : e.bitCnt + 1 = k.width)
    (hp : k.parity ≠ .none) : sequence k m e = .ok { dataSent k e with phase := .parity } := by
  rw [sequence_data h, if_pos hw, if_neg hp]

/-- The last data pulse of a byte that has no parity pulse. -/
theorem sequence_data_last {k : EncConfig} {m : Memory} {e : Enc} (h : e.phase = .data) (hw : e.bitCnt + 1 = k.width)
    (hp : k.parity = .none) : sequence k m e = nextByte m (dataSent k e) := by
  rw [sequence_data h, if_pos hw, if_pos hp]

theorem sequence_parity {k : EncConfig} {m : Memory} {e : Enc} (h : e.phase = .parity) : sequence k m e =
    nextByte m { e with sinkLog := e.sinkLog ++ (parityPulse k.parity e.par).toList.map (pulse k) } := by
  rw [sequence, h]

theorem sequence_endMark {k : EncConfig} {m : Memory} {e : Enc} (h : e.phase = .endMark) :
    sequence k m e = .ok { emitCall (pulse k false) e with phase := .idleMark } := by
  simp only [sequence, h]

theorem sequence_idleMark {k : EncConfig} {m : Memory} {e : Enc} (h : e.phase = .idleMark) :
    sequence k m e = .ok { emitCall (idleMarker k) e with phase := .idle } := by
  simp only [sequence, h]

/-! ### An encode in flight -/

theorem widthLegal_iff {w : BitVec 4} : widthLegal w = true ↔ 1 ≤ w.toNat ∧ w.toNat ≤ 8 := by
  rw [widthLegal, decide_eq_true_eq]

theorem bufferInRange_iff {base : Addr} {len : BitVec 24} :
    bufferInRange base len = true ↔ len.toNat = 0 ∨ base.toNat + len.toNat - 1 < 2 ^ 32 := by
  rw [bufferInRange, decide_eq_true_eq]

/-- The part of `Enc.InFlight` that does not depend on the phase: what ENCODE checked, and no turn changes. -/
structure Enc.Loaded (p : Params) (e : Enc) (k : EncConfig) : Prop where
  sequenced : p.sequenced = true
  configured : e.config = some k
  width : widthLegal k.width = true
  buffer : bufferInRange e.base e.len = true

section
variable {p : Params} {e : Enc} {k : EncConfig} {m : Memory}

theorem Enc.InFlight.loaded (h : Enc.InFlight p e k) : Enc.Loaded p e k := { h with }

/-- The bytes of the buffer given exist (20_memory R62). -/
theorem Enc.Loaded.byte_exists (h : Enc.Loaded p e k) {n : Nat} (hn : n < e.len.toNat) : e.base.toNat + n < 2 ^ 32 := by
  have hbuf := bufferInRange_iff.mp h.buffer
  omega

theorem Enc.Loaded.width_pos (h : Enc.Loaded p e k) : 0 < k.width.toNat := (widthLegal_iff.mp h.width).1

/-- `begin_byte()` at a byte of the buffer goes ahead, and the encode stays in flight. -/
theorem Enc.Loaded.beginByte (h : Enc.Loaded p e k) (hidx : e.byteIdx.toNat < e.len.toNat) :
    ∃ e', beginByte m e = .ok e' ∧ Enc.InFlight p e' k :=
  ⟨_, beginByte_ok.mpr ⟨h.byte_exists hidx, rfl⟩,
    { h with inSync := nofun, inData := fun _ => ⟨hidx, h.width_pos⟩, inParity := nofun }⟩

/-- The next byte index, where a byte is being sent. -/
theorem byteIdx_succ (h : e.byteIdx.toNat < e.len.toNat) : (e.byteIdx + 1).toNat = e.byteIdx.toNat + 1 := by
  have := e.len.isLt
  bv_omega

/-- `next_byte()` after a byte of the buffer goes ahead, and the encode stays in flight. -/
theorem Enc.Loaded.nextByte (h : Enc.Loaded p e k) (hidx : e.byteIdx.toNat < e.len.toNat) :
    ∃ e', nextByte m e = .ok e' ∧ Enc.InFlight p e' k := by
  have hsucc := byteIdx_succ hidx
  by_cases hlast : e.byteIdx + 1 = e.len
  · exact ⟨_, nextByte_ok.mpr (.inl ⟨hlast, rfl⟩), { h with inSync := nofun, inData := nofun, inParity := nofun }⟩
  · have hne : (e.byteIdx + 1).toNat ≠ e.len.toNat := fun heq => hlast (BitVec.eq_of_toNat_eq heq)
    obtain ⟨e', he', hin⟩ := Enc.Loaded.beginByte (m := m) (e := { e with byteIdx := e.byteIdx + 1 }) { h with }
      (show (e.byteIdx + 1).toNat < e.len.toNat by omega)
    exact ⟨e', nextByte_ok.mpr (.inr ⟨hlast, he'⟩), hin⟩

/-- A turn of an encode in flight goes ahead, and leaves the encode in flight or ended (41_encoder R120). -/
theorem Enc.InFlight.turn (h : Enc.InFlight p e k) : ∃ e', sequence k m e = .ok e' ∧ Enc.InFlight p e' k := by
  cases hp : e.phase
  case idle => exact ⟨e, by rw [sequence, hp], h⟩
  case sync =>
    obtain ⟨hpos, hle⟩ := h.inSync hp
    refine ⟨_, sequence_sync hp, { h with inSync := fun hs => ?_, inData := fun hd => ?_, inParity := fun hd => ?_ }⟩
    · have hne : e.syncLeft - 1 ≠ 0 := by simpa using hs
      change 1 ≤ (e.syncLeft - 1).toNat ∧ (e.syncLeft - 1).toNat ≤ k.sync.toNat
      bv_omega
    all_goals (split at hd <;> cases hd)
  case start =>
    by_cases hlen : e.len = 0
    · exact ⟨_, sequence_start_empty hp hlen, { h with inSync := nofun, inData := nofun, inParity := nofun }⟩
    · rw [sequence_start hp hlen]
      refine Enc.Loaded.beginByte { h.loaded with } ?_
      change 0 < e.len.toNat
      bv_omega
  case data =>
    obtain ⟨hidx, hbit⟩ := h.inData hp
    by_cases hw : e.bitCnt + 1 = k.width
    · by_cases hpar : k.parity = .none
      · rw [sequence_data_last hp hw hpar]
        exact Enc.Loaded.nextByte { h.loaded with } hidx
      · exact ⟨_, sequence_data_parity hp hw hpar,
          { h with inSync := nofun, inData := nofun, inParity := fun _ => ⟨hidx, hpar⟩ }⟩
    · refine ⟨_, sequence_data_more hp hw, { h with inData := fun _ => ⟨hidx, ?_⟩ }⟩
      change (e.bitCnt + 1).toNat < k.width.toNat
      bv_omega
  case parity =>
    rw [sequence_parity hp]
    exact Enc.Loaded.nextByte { h.loaded with } (h.inParity hp).1
  case endMark => exact ⟨_, sequence_endMark hp, { h with inSync := nofun, inData := nofun, inParity := nofun }⟩
  case idleMark => exact ⟨_, sequence_idleMark hp, { h with inSync := nofun, inData := nofun, inParity := nofun }⟩

end

/-! ### The invariants of unit ENC -/

theorem Enc.Inv.reset (p : Params) : Enc.Inv p Enc.reset := by
  constructor <;> simp [Enc.reset, BoundedBy]

theorem tableFits_loadTable (p : Params) (m : Memory) (codes : Nat) :
    BoundedBy (2 ^ p.dw) (loadTable p m codes).zeroMark ∧ BoundedBy (2 ^ p.dw) (loadTable p m codes).zeroSpace ∧
    BoundedBy (2 ^ p.dw) (loadTable p m codes).oneMark ∧ BoundedBy (2 ^ p.dw) (loadTable p m codes).oneSpace ∧
    BoundedBy (2 ^ p.dw) (loadTable p m codes).idle := by
  have fits (code : BitVec 8) : BoundedBy (2 ^ p.dw) (some (rate p code)) :=
    fun _ hx => Option.some.inj hx ▸ rate_lt p code
  exact ⟨fits _, fits _, fits _, fits _, fits _⟩

/-- The start action puts an encode in flight. -/
theorem Enc.Inv.encodeStart {p : Params} {e : Enc} {k : EncConfig} {base : Addr} {len : BitVec 24} (h : Enc.Inv p e)
    (hseq : p.sequenced = true) (hk : e.config = some k) (hw : widthLegal k.width = true)
    (hb : bufferInRange base len = true) : Enc.Inv p (encodeStart k base len e) where
  tableFits := h.tableFits
  inFlight _ := by
    refine ⟨k, ⟨hseq, hk, hw, hb, fun hs => ?_, fun hd => ?_, fun hd => ?_⟩⟩
    · have hne : k.sync ≠ 0 := by simpa [Machine.encodeStart] using hs
      refine ⟨?_, le_refl _⟩
      change 1 ≤ k.sync.toNat
      bv_omega
    all_goals (simp only [Machine.encodeStart] at hd; split at hd <;> cases hd)

/-- Every operation keeps the invariants of unit ENC: with no encode in flight the configuration is free. -/
theorem Enc.Inv.exec {i : Instr} {s t : State} (he : Enc.Inv s.params s.enc) (h : exec i s = .next t) :
    Enc.Inv t.params t.enc := by
  cases i with
  | init => obtain rfl := execInit_next.mp h; exact Enc.Inv.reset _
  | decRegister id => obtain ⟨-, -, rfl⟩ := execDecRegister_next.mp h; exact he
  | ttSetup sync codes =>
    obtain ⟨hp, -, rfl⟩ := execTtSetup_next.mp h
    exact ⟨tableFits_loadTable _ _ _ , absurd hp⟩
  | cfgFormat w order pmode =>
    obtain ⟨hp, mode, -, rfl⟩ := execCfgFormat_next.mp h
    exact ⟨he.tableFits, absurd hp⟩
  | cfgSink param =>
    obtain ⟨hp, rfl⟩ := execCfgSink_next.mp h
    exact ⟨he.tableFits, absurd hp⟩
  | encode base len =>
    obtain ⟨k, -, hk, hw, hb, rfl⟩ := execEncode_next.mp h
    cases hseq : s.params.sequenced
    case true => exact he.encodeStart hseq hk hw hb
    case false => exact ⟨he.tableFits, absurd rfl⟩
  | lineEdge level => obtain rfl := execLineEdge_next.mp h; exact he
  | tick n => obtain rfl := execTick_next.mp h; exact he
  | edgeIsr => obtain ⟨-, -, rfl⟩ := execEdgeIsr_next.mp h; exact he
  | timeoutIsr => obtain ⟨-, rfl⟩ := execTimeoutIsr_next.mp h; exact he
  | rdDisable => obtain rfl := execRdDisable_next.mp h; exact he
  | rdEnable => obtain rfl := execRdEnable_next.mp h; exact he
  | frameQueued => obtain rfl := execFrameQueued_next.mp h; exact he
  | runIval => obtain ⟨-, rfl⟩ := execRunIval_next.mp h; exact he
  | runReset1 => obtain ⟨-, rfl⟩ := execRunReset1_next.mp h; exact he
  | runReset2 => obtain ⟨-, rfl⟩ := execRunReset2_next.mp h; exact he
  | runWen => obtain ⟨-, rfl⟩ := execRunWen_next.mp h; exact he

/-- A turn of the sequencer keeps the invariants of unit ENC. -/
theorem Enc.Inv.encStep {s t : State} (he : Enc.Inv s.params s.enc) (h : encStep s = .next t) :
    Enc.Inv t.params t.enc := by
  obtain ⟨hp, k, e', hk, -, hq, rfl⟩ := encStep_next.mp h
  obtain ⟨k', hin⟩ := he.inFlight hp
  obtain rfl : k = k' := Option.some.inj (hk.symm.trans hin.configured)
  obtain ⟨e'', hq', hin'⟩ := hin.turn (m := s.buf)
  obtain rfl : e' = e'' := Except.ok.inj (hq.symm.trans hq')
  obtain ⟨-, htimes, -⟩ := sequence_keeps hq
  exact ⟨by rw [htimes]; exact he.tableFits, fun _ => ⟨k, hin'⟩⟩

/-! ### The invariant of the machine -/

/-- An operation leaves the parameters, BUF and the inputs. -/
theorem exec_frame {i : Instr} {s t : State} (h : exec i s = .next t) :
    t.params = s.params ∧ t.buf = s.buf ∧ t.inputs = s.inputs := by
  cases i with
  | init => obtain rfl := execInit_next.mp h; exact ⟨rfl, rfl, rfl⟩
  | decRegister id => obtain ⟨-, -, rfl⟩ := execDecRegister_next.mp h; exact ⟨rfl, rfl, rfl⟩
  | ttSetup sync codes => obtain ⟨-, -, rfl⟩ := execTtSetup_next.mp h; exact ⟨rfl, rfl, rfl⟩
  | cfgFormat w order pmode => obtain ⟨-, mode, -, rfl⟩ := execCfgFormat_next.mp h; exact ⟨rfl, rfl, rfl⟩
  | cfgSink param => obtain ⟨-, rfl⟩ := execCfgSink_next.mp h; exact ⟨rfl, rfl, rfl⟩
  | encode base len => obtain ⟨k, -, -, -, -, rfl⟩ := execEncode_next.mp h; exact ⟨rfl, rfl, rfl⟩
  | lineEdge level => obtain rfl := execLineEdge_next.mp h; exact ⟨rfl, rfl, rfl⟩
  | tick n => obtain rfl := execTick_next.mp h; exact ⟨rfl, rfl, rfl⟩
  | edgeIsr => obtain ⟨-, -, rfl⟩ := execEdgeIsr_next.mp h; exact ⟨rfl, rfl, rfl⟩
  | timeoutIsr => obtain ⟨-, rfl⟩ := execTimeoutIsr_next.mp h; exact ⟨rfl, rfl, rfl⟩
  | rdDisable => obtain rfl := execRdDisable_next.mp h; exact ⟨rfl, rfl, rfl⟩
  | rdEnable => obtain rfl := execRdEnable_next.mp h; exact ⟨rfl, rfl, rfl⟩
  | frameQueued => obtain rfl := execFrameQueued_next.mp h; exact ⟨rfl, rfl, rfl⟩
  | runIval => obtain ⟨-, rfl⟩ := execRunIval_next.mp h; exact ⟨rfl, rfl, rfl⟩
  | runReset1 => obtain ⟨-, rfl⟩ := execRunReset1_next.mp h; exact ⟨rfl, rfl, rfl⟩
  | runReset2 => obtain ⟨-, rfl⟩ := execRunReset2_next.mp h; exact ⟨rfl, rfl, rfl⟩
  | runWen => obtain ⟨-, rfl⟩ := execRunWen_next.mp h; exact ⟨rfl, rfl, rfl⟩

theorem State.Inv.exec {i : Instr} {s t : State} (hs : s.Inv) (h : exec i s = .next t) : t.Inv := by
  obtain ⟨hparams, hbuf, -⟩ := exec_frame h
  exact { params := hparams ▸ hs.params, buf := hbuf ▸ hs.buf, enc := hs.enc.exec h, cap := hs.cap.exec h }

theorem State.Inv.encStep {s t : State} (hs : s.Inv) (h : encStep s = .next t) : t.Inv := by
  have henc := hs.enc.encStep h
  obtain ⟨-, k, e', -, -, -, rfl⟩ := encStep_next.mp h
  exact { hs with enc := henc }

/-- The invariant does not look at the inputs. -/
theorem State.Inv.withInputs {s : State} (hs : s.Inv) (inputs : List Input) : State.Inv { s with inputs := inputs } :=
  { hs with }

/-- Settles O12: by what the step takes from the inputs, an operation, a turn of the sequencer or a byte of the caller. -/
theorem stepKeepsTheInvariant : Obligations.StepKeepsTheInvariant := by
  intro s t hs h
  rcases step_next_cases h with ⟨-, rfl⟩ | ⟨w, i, rest, -, -, h⟩ | ⟨rest, -, h⟩ | ⟨a, v, rest, -, rfl⟩
  · exact hs
  · exact (hs.withInputs rest).exec h
  · exact (hs.withInputs rest).encStep h
  · exact { hs with buf := Memory.wf_write hs.buf a.isLt }

/-! ### No fault -/

theorem guarded_ne_fault {g : Bool} {u : State} {r : Refusal} {f : Fault} :
    (if g then (Host.Outcome.next u : Host.Outcome State Fault Refusal) else .refused r) ≠ .fault f := by
  cases g <;> nofun

/-- No operation faults: each answers a next state or a refusal. -/
theorem exec_ne_fault (i : Instr) (s : State) (f : Fault) : exec i s ≠ .fault f := by
  cases i with
  | init | lineEdge level | tick n | rdDisable | rdEnable | frameQueued => nofun
  | edgeIsr | timeoutIsr | runIval | runReset1 | runReset2 | runWen => exact guarded_ne_fault
  | decRegister id =>
    change execDecRegister id s ≠ _
    unfold execDecRegister
    split
    · nofun
    · split <;> nofun
  | ttSetup sync codes =>
    change execTtSetup sync codes s ≠ _
    unfold execTtSetup
    split
    · nofun
    · split <;> nofun
  | cfgFormat w order pmode =>
    change execCfgFormat w order pmode s ≠ _
    unfold execCfgFormat
    split
    · nofun
    · split <;> nofun
  | cfgSink param =>
    change execCfgSink param s ≠ _
    unfold execCfgSink
    split <;> nofun
  | encode base len =>
    change execEncode base len s ≠ _
    unfold execEncode
    split
    · nofun
    · split <;> nofun

/-- A turn of the sequencer faults only where its read of the next byte does. -/
theorem encStep_fault {s : State} {f : Fault} (h : encStep s = .fault f) :
    s.enc.phase ≠ .idle ∧ ∃ k, s.enc.config = some k ∧ sequence k s.buf s.enc = .error f := by
  unfold encStep at h
  split at h
  · cases h
  · rename_i hp
    split at h
    · cases h
    · rename_i k hk
      split at h
      · split at h
        · cases h
        · rename_i hq
          cases h
          exact ⟨hp, k, hk, hq⟩
      · cases h

/-- Settles O13: only a turn of the sequencer can fault, and an encode in flight goes ahead. -/
theorem noStepFaultsUnderTheInvariant : Obligations.NoStepFaultsUnderTheInvariant := by
  intro s f hs h
  unfold step at h
  split at h
  · cases h
  · split at h
    · exact exec_ne_fault _ _ _ h
    · cases h
  · obtain ⟨hp, k, hk, hq⟩ := encStep_fault h
    obtain ⟨k', hin⟩ := hs.enc.inFlight hp
    obtain rfl : k = k' := Option.some.inj (hk.symm.trans hin.configured)
    obtain ⟨e', hq', -⟩ := hin.turn (m := s.buf)
    cases hq.symm.trans hq'
  · cases h

/-- Settles O7: the reset values meet both units' invariants. -/
theorem resetMeetsTheInvariant : Obligations.ResetMeetsTheInvariant where
  params := by decide
  buf := rfl
  enc := Enc.Inv.reset _
  cap := Cap.Inv.reset _ _

end Sys2Proof.Machine
end

section
/-! PROOFS. The step, reset and BUF, and the independence of the two units (spec/10_state.md R20, spec/20_memory.md R61,
spec/40_config.md R100, spec/70_reset_and_hazards.md R201 to R203). -/

namespace Sys2Proof.Machine

/-! ### The step, reset and INIT -/

/-- Settles O5: the step by the head of the input list. -/
theorem stepTakesTheNextInput : Obligations.StepTakesTheNextInput := by
  refine fun s => ⟨fun hi => ?_, fun w rest i hi hd => ?_, fun w rest e hi hd => ?_, fun rest hi => ?_,
    fun a v rest hi => ?_⟩
  · rw [step, hi]
  · rw [step, hi]
    simp only [hd]
  · rw [step, hi]
    simp only [hd]
  · rw [step, hi]
  · rw [step, hi]

/-- Settles O6: the reset state is closed, and each register is read off it. -/
theorem resetLeavesTheStatedValues : Obligations.ResetLeavesTheStatedValues :=
  ⟨rfl, rfl, rfl, rfl, rfl, rfl, rfl, rfl, rfl, rfl⟩

/-- Settles O8: INIT asks nothing of the state and writes the reset values. -/
theorem initPutsEverythingToReset : Obligations.InitPutsEverythingToReset :=
  fun _ => ⟨_, execInit_next.mpr rfl, rfl, rfl, rfl, rfl, rfl, rfl, fun _ => rfl⟩

/-! ### BUF -/

/-- The first entry of a canonical memory: its address is not below the bound, it is not an unlisted byte, and the rest
lies above it. -/
theorem Memory.wfFrom_cons {lo b : Nat} {w : Byte} {m : Memory} (h : Memory.wfFrom lo ((b, w) :: m) = true) :
    lo ≤ b ∧ w ≠ unlistedByte ∧ Memory.wfFrom (b + 1) m = true := by
  simp only [Memory.wfFrom, Bool.and_eq_true, decide_eq_true_eq] at h
  obtain ⟨⟨⟨hlo, -⟩, hw⟩, hm⟩ := h
  exact ⟨hlo, hw, hm⟩

theorem Memory.read_cons_self (b : Nat) (w : Byte) (m : Memory) : Memory.read ((b, w) :: m) b = w := if_pos rfl

/-- A canonical memory's first entry is the lowest address at which it reads as listed. -/
theorem Memory.first_le_of_listed {lo b a : Nat} {w : Byte} {m : Memory} (h : Memory.wfFrom lo ((b, w) :: m) = true)
    (ha : Memory.read ((b, w) :: m) a ≠ unlistedByte) : b ≤ a := by
  obtain ⟨-, -, hm⟩ := Memory.wfFrom_cons h
  by_contra hlt
  refine ha ?_
  rw [Memory.read, if_neg (by omega)]
  exact Memory.read_below hm (by omega)

/-- Canonical memories above a bound that read alike are equal. -/
theorem Memory.ext_from {lo : Nat} {m m' : Memory} (h : Memory.wfFrom lo m = true) (h' : Memory.wfFrom lo m' = true)
    (hread : ∀ a, Memory.read m a = Memory.read m' a) : m = m' := by
  induction m generalizing lo m' with
  | nil =>
    cases m' with
    | nil => rfl
    | cons e m' => exact absurd ((Memory.read_cons_self e.1 e.2 m').symm.trans (hread e.1).symm) (Memory.wfFrom_cons h').2.1
  | cons e m ih =>
    obtain ⟨b, w⟩ := e
    obtain ⟨-, hw, hm⟩ := Memory.wfFrom_cons h
    have hb := hread b
    rw [Memory.read_cons_self] at hb
    cases m' with
    | nil => exact absurd hb hw
    | cons e' m' =>
      obtain ⟨b', w'⟩ := e'
      obtain ⟨-, hw', hm'⟩ := Memory.wfFrom_cons h'
      have hb' := hread b'
      rw [Memory.read_cons_self] at hb'
      have hle : b' ≤ b := Memory.first_le_of_listed h' (hb ▸ hw)
      have hge : b ≤ b' := Memory.first_le_of_listed h (hb'.symm ▸ hw')
      obtain rfl : b = b' := Nat.le_antisymm hge hle
      rw [Memory.read_cons_self] at hb
      obtain rfl : w = w' := hb
      refine congrArg _ (ih hm hm' fun a => ?_)
      by_cases ha : a = b
      · rw [ha, Memory.read_below hm (Nat.lt_succ_self b), Memory.read_below hm' (Nat.lt_succ_self b)]
      · simpa only [Memory.read, if_neg ha] using hread a

/-- Settles O9: the canonical form fixes the first entry by what the memory reads, and the rest by induction. -/
theorem canonicalBufIsDeterminedByItsReads : Obligations.CanonicalBufIsDeterminedByItsReads :=
  fun _ _ h h' hread => Memory.ext_from h h' hread

/-- Settles O10: the meaning of an operation rewrites one unit, or both. -/
theorem operationsNeverWriteBuf : Obligations.OperationsNeverWriteBuf := by
  intro i s t h
  obtain ⟨hparams, hbuf, hinputs⟩ := exec_frame h
  exact ⟨fun a => by rw [hbuf], hparams, hinputs⟩

/-- ENC_STEP rewrites unit ENC alone. -/
theorem encStep_frame {s t : State} (h : encStep s = .next t) : t = { s with enc := t.enc } := by
  obtain ⟨-, k, e, -, -, -, rfl⟩ := encStep_next.mp h
  rfl

/-- Settles O11: of the four things a step can be only the caller's write touches BUF. -/
theorem stepWritesBufOnlyForItsCaller : Obligations.StepWritesBufOnlyForItsCaller := by
  intro s t h hwf
  rcases step_next_cases h with ⟨-, rfl⟩ | ⟨w, i, rest, -, -, h⟩ | ⟨rest, -, h⟩ | ⟨a, v, rest, hi, rfl⟩
  · exact ⟨rfl, .inl fun _ => rfl⟩
  · obtain ⟨hparams, hbuf, -⟩ := exec_frame h
    exact ⟨hparams, .inl fun a => by rw [hbuf]⟩
  · rw [encStep_frame h]
    exact ⟨rfl, .inl fun _ => rfl⟩
  · exact ⟨rfl, .inr ⟨a, v, rest, hi, Memory.read_write_from v hwf⟩⟩

/-! ### The two units -/

/-- An operation of unit CAP rewrites unit CAP alone. -/
theorem exec_cap_frame {j : Instr} {s t : State} (hj : instrIsCap j = true) (h : exec j s = .next t) :
    t = { s with cap := t.cap } := by
  cases j with
  | init | ttSetup | cfgFormat | cfgSink | encode => cases hj
  | decRegister id => obtain ⟨-, -, rfl⟩ := execDecRegister_next.mp h; rfl
  | lineEdge level => obtain rfl := execLineEdge_next.mp h; rfl
  | tick n => obtain rfl := execTick_next.mp h; rfl
  | edgeIsr => obtain ⟨-, -, rfl⟩ := execEdgeIsr_next.mp h; rfl
  | timeoutIsr => obtain ⟨-, rfl⟩ := execTimeoutIsr_next.mp h; rfl
  | rdDisable => obtain rfl := execRdDisable_next.mp h; rfl
  | rdEnable => obtain rfl := execRdEnable_next.mp h; rfl
  | frameQueued => obtain rfl := execFrameQueued_next.mp h; rfl
  | runIval => obtain ⟨-, rfl⟩ := execRunIval_next.mp h; rfl
  | runReset1 => obtain ⟨-, rfl⟩ := execRunReset1_next.mp h; rfl
  | runReset2 => obtain ⟨-, rfl⟩ := execRunReset2_next.mp h; rfl
  | runWen => obtain ⟨-, rfl⟩ := execRunWen_next.mp h; rfl

/-- An operation of unit ENC rewrites unit ENC alone. -/
theorem exec_enc_frame {i : Instr} {s t : State} (hi : instrIsEnc i = true) (h : exec i s = .next t) :
    t = { s with enc := t.enc } := by
  cases i with
  | ttSetup sync codes => obtain ⟨-, -, rfl⟩ := execTtSetup_next.mp h; rfl
  | cfgFormat w order pmode => obtain ⟨-, mode, -, rfl⟩ := execCfgFormat_next.mp h; rfl
  | cfgSink param => obtain ⟨-, rfl⟩ := execCfgSink_next.mp h; rfl
  | encode base len => obtain ⟨k, -, -, -, -, rfl⟩ := execEncode_next.mp h; rfl
  | _ => cases hi

/-- Settles O14: each operation rewrites its own unit alone, and a turn keeps the Channel Context. -/
theorem unitsShareNoState : Obligations.UnitsShareNoState := by
  refine ⟨fun i s t h => ⟨fun hi => ?_, fun hi => ?_⟩, fun s t h => ?_⟩
  · rw [exec_cap_frame hi h]
  · rw [exec_enc_frame hi h]
  · obtain ⟨-, k, e, -, -, hq, rfl⟩ := encStep_next.mp h
    obtain ⟨-, htimes, hsync, hwidth, horder, hparity, hparam, hbase, hlen, -⟩ := sequence_keeps hq
    exact ⟨rfl, htimes, hsync, hwidth, horder, hparity, hparam, hbase, hlen, rfl, rfl, fun _ => rfl⟩

/-! ### Operations of different units commute -/

/-- The outcome with its next state, where it has one, passed through `f`. -/
def onNext (f : State → State) : Host.Outcome State Fault Refusal → Host.Outcome State Fault Refusal
  | .next s => .next (f s)
  | .fault r => .fault r
  | .refused r => .refused r

@[simp] theorem onNext_next (f : State → State) (s : State) : onNext f (.next s) = .next (f s) := rfl

@[simp] theorem onNext_eq_refused {f : State → State} {o : Host.Outcome State Fault Refusal} {r : Refusal} :
    onNext f o = .refused r ↔ o = .refused r := by
  cases o <;> simp [onNext]

@[simp] theorem onNext_eq_fault {f : State → State} {o : Host.Outcome State Fault Refusal} {r : Fault} :
    onNext f o = .fault r ↔ o = .fault r := by
  cases o <;> simp [onNext]

theorem onNext_guarded {f : State → State} {g : Bool} {u : State} {r : Refusal} :
    onNext f (if g then .next u else .refused r) = if g then .next (f u) else .refused r := by
  cases g <;> rfl

/-- An operation of unit CAP does the same whatever unit ENC holds. -/
theorem exec_cap_withEnc {j : Instr} (hj : instrIsCap j = true) (s : State) (e : Enc) :
    exec j { s with enc := e } = onNext (fun t => { t with enc := e }) (exec j s) := by
  cases j with
  | init | ttSetup | cfgFormat | cfgSink | encode => cases hj
  | lineEdge | tick | rdDisable | rdEnable | frameQueued => rfl
  | edgeIsr | timeoutIsr | runIval | runReset1 | runReset2 | runWen =>
    simp only [exec, execEdgeIsr, execTimeoutIsr, execRunIval, execRunReset1, execRunReset2, execRunWen, onNext_guarded]
  | decRegister id =>
    change execDecRegister id _ = onNext _ (execDecRegister id s)
    unfold execDecRegister
    split
    · rfl
    · split <;> rfl

/-- An operation of unit ENC does the same whatever unit CAP holds. -/
theorem exec_enc_withCap {i : Instr} (hi : instrIsEnc i = true) (s : State) (c : Cap) :
    exec i { s with cap := c } = onNext (fun t => { t with cap := c }) (exec i s) := by
  cases i with
  | ttSetup sync codes =>
    change execTtSetup sync codes _ = onNext _ (execTtSetup sync codes s)
    unfold execTtSetup
    split
    · rfl
    · split <;> rfl
  | cfgFormat w order pmode =>
    change execCfgFormat w order pmode _ = onNext _ (execCfgFormat w order pmode s)
    unfold execCfgFormat
    split
    · rfl
    · split <;> rfl
  | cfgSink param =>
    change execCfgSink param _ = onNext _ (execCfgSink param s)
    unfold execCfgSink
    split <;> rfl
  | encode base len =>
    change execEncode base len _ = onNext _ (execEncode base len s)
    unfold execEncode
    dsimp only
    cases encodeCheck base len s.enc with
    | error r => rfl
    | ok k => cases s.params.sequenced <;> rfl
  | _ => cases hi

/-- ENC_STEP does the same whatever unit CAP holds. -/
theorem encStep_withCap (s : State) (c : Cap) :
    encStep { s with cap := c } = onNext (fun t => { t with cap := c }) (encStep s) := by
  unfold encStep
  split
  · rfl
  · dsimp only
    cases s.enc.config with
    | none => rfl
    | some k =>
      dsimp only
      split
      · cases sequence k s.buf s.enc <;> rfl
      · rfl

/-- After a change of unit ENC alone, an operation of unit CAP goes as before it. -/
theorem exec_cap_after_enc {j : Instr} {s a : State} (hj : instrIsCap j = true) (ha : a = { s with enc := a.enc }) :
    exec j a = onNext (fun t => { t with enc := a.enc }) (exec j s) := by
  conv_lhs => rw [ha]
  exact exec_cap_withEnc hj s a.enc

/-- After a change of unit CAP alone, an operation of unit ENC goes as before it. -/
theorem exec_enc_after_cap {i : Instr} {s b : State} (hi : instrIsEnc i = true) (hb : b = { s with cap := b.cap }) :
    exec i b = onNext (fun t => { t with cap := b.cap }) (exec i s) := by
  conv_lhs => rw [hb]
  exact exec_enc_withCap hi s b.cap

theorem encStep_after_cap {s b : State} (hb : b = { s with cap := b.cap }) :
    encStep b = onNext (fun t => { t with cap := b.cap }) (encStep s) := by
  conv_lhs => rw [hb]
  exact encStep_withCap s b.cap

/-- Each unit as one side left it. -/
theorem merge_units {s a b : State} (ha : a = { s with enc := a.enc }) (hb : b = { s with cap := b.cap }) :
    ({ a with cap := b.cap } : State) = { b with enc := a.enc } := by
  rw [ha, hb]

/-- Settles O15: each side's outcome is the same after the other, which has rewritten only the other unit. -/
theorem unitOperationsCommute : Obligations.UnitOperationsCommute := by
  refine ⟨fun i j s a b hi hj ha hb => ?_, fun j s a b hj ha hb => ?_, fun j s a r hj ha => ?_, fun j s b hj hb => ?_⟩
  · have hea := exec_enc_frame hi ha
    have hcb := exec_cap_frame hj hb
    refine ⟨{ b with enc := a.enc }, by rw [exec_cap_after_enc hj hea, hb, onNext_next], ?_⟩
    rw [exec_enc_after_cap hi hcb, ha, onNext_next, merge_units hea hcb]
  · have hea := encStep_frame ha
    have hcb := exec_cap_frame hj hb
    refine ⟨{ b with enc := a.enc }, by rw [exec_cap_after_enc hj hea, hb, onNext_next], ?_⟩
    rw [encStep_after_cap hcb, ha, onNext_next, merge_units hea hcb]
  · rw [exec_cap_after_enc hj (encStep_frame ha), onNext_eq_refused]
  · rw [encStep_after_cap (exec_cap_frame hj hb)]
    exact ⟨fun r => onNext_eq_refused.symm, fun f => onNext_eq_fault.symm⟩

end Sys2Proof.Machine
end

section
/-! PROOFS. Which operation writes what: the access matrix, the transition table of `overflow` and the sources of the calls
(spec/10_state.md R53, spec/70_reset_and_hazards.md R212, spec/60_exceptions.md R195). -/

namespace Sys2Proof.Machine

/-! ### What each body leaves (the rows of 10_state R53) -/

@[simp] theorem openSettleWindow_keeps (p : Params) (c : Cap) :
    (openSettleWindow p c).enableDelay = c.enableDelay ∧ (openSettleWindow p c).decoders = c.decoders ∧
    (openSettleWindow p c).started = c.started ∧ (openSettleWindow p c).now = c.now ∧
    (openSettleWindow p c).capTime = c.capTime ∧ (openSettleWindow p c).capLevel = c.capLevel ∧
    (openSettleWindow p c).reset2Timer = c.reset2Timer ∧ (openSettleWindow p c).wenTimer = c.wenTimer :=
  ⟨rfl, rfl, rfl, rfl, rfl, rfl, rfl, rfl⟩

@[simp] theorem edgeBody_keeps (p : Params) (c : Cap) :
    (edgeBody p c).enableDelay = c.enableDelay ∧ (edgeBody p c).decoders = c.decoders ∧
    (edgeBody p c).started = c.started ∧ (edgeBody p c).now = c.now ∧ (edgeBody p c).capTime = c.capTime ∧
    (edgeBody p c).capLevel = c.capLevel ∧ (edgeBody p c).reset2Timer = c.reset2Timer ∧
    (edgeBody p c).wenTimer = c.wenTimer := by
  cases ho : c.overflow
  case first => rw [edgeBody_of_first ho]; exact openSettleWindow_keeps _ _
  case armed =>
    cases hi : c.ivalPending
    case true => rw [edgeBody_of_overrun ho hi]; exact ⟨rfl, rfl, rfl, rfl, rfl, rfl, rfl, rfl⟩
    case false => rw [edgeBody_of_accepted ho hi]; exact openSettleWindow_keeps _ _
  all_goals
    rw [edgeBody_of_unexpected (by simp [ho]) (by simp [ho])]
    exact ⟨rfl, rfl, rfl, rfl, rfl, rfl, rfl, rfl⟩

@[simp] theorem timeoutBody_keeps (p : Params) (c : Cap) :
    (timeoutBody p c).lastEdgeTime = c.lastEdgeTime ∧ (timeoutBody p c).thisInterval = c.thisInterval ∧
    (timeoutBody p c).thisLevel = c.thisLevel ∧ (timeoutBody p c).fatalSeen = c.fatalSeen ∧
    (timeoutBody p c).pulseCount = c.pulseCount ∧ (timeoutBody p c).enableDelay = c.enableDelay ∧
    (timeoutBody p c).decoders = c.decoders ∧ (timeoutBody p c).started = c.started ∧
    (timeoutBody p c).now = c.now ∧ (timeoutBody p c).capTime = c.capTime ∧ (timeoutBody p c).capLevel = c.capLevel ∧
    (timeoutBody p c).capFlag = c.capFlag ∧ (timeoutBody p c).ivalPending = c.ivalPending ∧
    (timeoutBody p c).reset2Timer = c.reset2Timer ∧ (timeoutBody p c).wenTimer = c.wenTimer := by
  unfold timeoutBody
  split
  · split <;> exact ⟨rfl, rfl, rfl, rfl, rfl, rfl, rfl, rfl, rfl, rfl, rfl, rfl, rfl, rfl, rfl⟩
  all_goals exact ⟨rfl, rfl, rfl, rfl, rfl, rfl, rfl, rfl, rfl, rfl, rfl, rfl, rfl, rfl, rfl⟩

@[simp] theorem disableBody_keeps (c : Cap) :
    (disableBody c).lastEdgeTime = c.lastEdgeTime ∧ (disableBody c).thisInterval = c.thisInterval ∧
    (disableBody c).thisLevel = c.thisLevel ∧ (disableBody c).fatalSeen = c.fatalSeen ∧
    (disableBody c).pulseCount = c.pulseCount ∧ (disableBody c).enableDelay = c.enableDelay ∧
    (disableBody c).decoders = c.decoders ∧ (disableBody c).now = c.now ∧ (disableBody c).capTime = c.capTime ∧
    (disableBody c).capLevel = c.capLevel ∧ (disableBody c).capFlag = c.capFlag ∧ (disableBody c).cmp = c.cmp ∧
    (disableBody c).ivalPending = c.ivalPending ∧ (disableBody c).reset2Timer = c.reset2Timer ∧
    (disableBody c).wenTimer = c.wenTimer := by
  unfold disableBody
  split <;> exact ⟨rfl, rfl, rfl, rfl, rfl, rfl, rfl, rfl, rfl, rfl, rfl, rfl, rfl, rfl, rfl⟩

@[simp] theorem enableBody_keeps (c : Cap) :
    (enableBody c).lastEdgeTime = c.lastEdgeTime ∧ (enableBody c).thisInterval = c.thisInterval ∧
    (enableBody c).thisLevel = c.thisLevel ∧ (enableBody c).fatalSeen = c.fatalSeen ∧
    (enableBody c).pulseCount = c.pulseCount ∧ (enableBody c).enableDelay = c.enableDelay ∧
    (enableBody c).decoders = c.decoders ∧ (enableBody c).now = c.now ∧ (enableBody c).capTime = c.capTime ∧
    (enableBody c).capLevel = c.capLevel ∧ (enableBody c).cmp = c.cmp ∧
    (enableBody c).ivalPending = c.ivalPending ∧ (enableBody c).reset1Pending = c.reset1Pending ∧
    (enableBody c).wenTimer = c.wenTimer := by
  by_cases ho : c.overflow = .resetDisableDeferred
  · rw [enableBody_of_deferred ho]
    exact ⟨rfl, rfl, rfl, rfl, rfl, rfl, rfl, rfl, rfl, rfl, rfl, rfl, rfl, rfl⟩
  · rw [enableBody_rearm ho]
    exact ⟨rfl, rfl, rfl, rfl, rfl, rfl, rfl, rfl, rfl, rfl, rfl, rfl, rfl, rfl⟩

/-- RUN_IVAL takes the interval and writes `cap_log`; everything else stays (44_deferred_tasks R161). -/
theorem ivalBody_eq (p : Params) (c : Cap) :
    ivalBody p c = { c with ivalPending := false, capLog := c.capLog ++ ivalCalls p c } := by
  rw [← ivalBody_capLog]
  unfold ivalBody
  split <;> rfl

@[simp] theorem reset1Body_keeps (p : Params) (c : Cap) :
    (reset1Body p c).lastEdgeTime = c.lastEdgeTime ∧ (reset1Body p c).thisInterval = c.thisInterval ∧
    (reset1Body p c).thisLevel = c.thisLevel ∧ (reset1Body p c).fatalSeen = c.fatalSeen ∧
    (reset1Body p c).decoders = c.decoders ∧ (reset1Body p c).started = c.started ∧ (reset1Body p c).now = c.now ∧
    (reset1Body p c).capTime = c.capTime ∧ (reset1Body p c).capLevel = c.capLevel ∧ (reset1Body p c).cmp = c.cmp := by
  by_cases hr : c.overflow = .reset
  · rw [reset1Body_of_reset hr]
    exact ⟨rfl, rfl, rfl, rfl, rfl, rfl, rfl, rfl, rfl, rfl⟩
  · by_cases hd : c.overflow = .resetDisableDeferred
    · rw [reset1Body_of_deferred hd]
      exact ⟨rfl, rfl, rfl, rfl, rfl, rfl, rfl, rfl, rfl, rfl⟩
    · rw [reset1Body_rearm hr hd]
      exact ⟨rfl, rfl, rfl, rfl, rfl, rfl, rfl, rfl, rfl, rfl⟩

/-- The first phase takes both tasks, in every state (44_deferred_tasks R162). -/
@[simp] theorem reset1Body_takes (p : Params) (c : Cap) :
    (reset1Body p c).reset1Pending = false ∧ (reset1Body p c).ivalPending = false := by
  by_cases hr : c.overflow = .reset
  · rw [reset1Body_of_reset hr]
    exact ⟨rfl, rfl⟩
  · by_cases hd : c.overflow = .resetDisableDeferred
    · rw [reset1Body_of_deferred hd]
      exact ⟨rfl, rfl⟩
    · rw [reset1Body_rearm hr hd]
      exact ⟨rfl, rfl⟩

/-- Settles O16: row by row of the access matrix, what an operation leaves is not changed by it. -/
theorem onlyListedOperationsWriteEachRegister : Obligations.OnlyListedOperationsWriteEachRegister := by
  intro i s t h hi
  cases i with
  | init => exact absurd rfl hi
  | decRegister id => obtain ⟨-, -, rfl⟩ := execDecRegister_next.mp h; simp
  | ttSetup sync codes => obtain ⟨-, -, rfl⟩ := execTtSetup_next.mp h; simp
  | cfgFormat w order pmode => obtain ⟨-, mode, -, rfl⟩ := execCfgFormat_next.mp h; simp
  | cfgSink param => obtain ⟨-, rfl⟩ := execCfgSink_next.mp h; simp
  | encode base len =>
    obtain ⟨k, -, -, -, -, rfl⟩ := execEncode_next.mp h
    cases s.params.sequenced <;> simp [encodeStart, encodeAtOnce]
  | lineEdge level => obtain rfl := execLineEdge_next.mp h; simp
  | tick n => obtain rfl := execTick_next.mp h; simp
  | edgeIsr => obtain ⟨-, -, rfl⟩ := execEdgeIsr_next.mp h; simp
  | timeoutIsr => obtain ⟨-, rfl⟩ := execTimeoutIsr_next.mp h; simp
  | rdDisable => obtain rfl := execRdDisable_next.mp h; simp
  | rdEnable => obtain rfl := execRdEnable_next.mp h; simp
  | frameQueued => obtain rfl := execFrameQueued_next.mp h; simp
  | runIval => obtain ⟨-, rfl⟩ := execRunIval_next.mp h; simp [ivalBody_eq]
  | runReset1 => obtain ⟨-, rfl⟩ := execRunReset1_next.mp h; simp
  | runReset2 => obtain ⟨-, rfl⟩ := execRunReset2_next.mp h; simp
  | runWen => obtain ⟨-, rfl⟩ := execRunWen_next.mp h; simp

end Sys2Proof.Machine
end

section
/-! PROOFS. The two logs and their sources, the transition table of `overflow`, and when the guarded operations run
(spec/10_state.md R48, spec/60_exceptions.md R184, R185, R195, spec/70_reset_and_hazards.md R212). -/

namespace Sys2Proof.Machine

/-! ### The logs -/

/-- Of the operations only INIT clears `sink_log`, and only ENCODE adds to it (10_state R48). -/
theorem exec_sinkLog {i : Instr} {s t : State} (h : exec i s = .next t) (hi : i ≠ .init) :
    ∃ calls, t.enc.sinkLog = s.enc.sinkLog ++ calls := by
  by_cases hencode : ∃ base len, i = .encode base len
  · obtain ⟨base, len, rfl⟩ := hencode
    obtain ⟨k, -, -, -, -, rfl⟩ := execEncode_next.mp h
    cases s.params.sequenced
    case true => exact ⟨[], (List.append_nil _).symm⟩
    case false => exact ⟨_, rfl⟩
  · refine ⟨[], ?_⟩
    rw [List.append_nil]
    by_contra hlog
    obtain ⟨-, -, -, hrow, -⟩ := onlyListedOperationsWriteEachRegister i s t h hi
    have hlisted := hrow (.inl hlog)
    cases i with
    | encode base len => exact hencode ⟨base, len, rfl⟩
    | _ => exact hlisted

theorem length_turnCalls_le (k : EncConfig) (e : Enc) : (turnCalls k e).length ≤ 1 := by
  unfold turnCalls
  cases e.phase
  case parity => cases parityPulse k.parity e.par <;> simp
  all_goals simp

/-- A turn of an encode in flight makes exactly one call (41_encoder R120). -/
theorem Enc.InFlight.length_turnCalls {p : Params} {e : Enc} {k : EncConfig} (h : Enc.InFlight p e k)
    (hp : e.phase ≠ .idle) : (turnCalls k e).length = 1 := by
  unfold turnCalls
  cases hphase : e.phase
  case idle => exact absurd hphase hp
  case parity =>
    obtain ⟨-, hparity⟩ := h.inParity hphase
    cases hmode : k.parity
    case none => exact absurd hmode hparity
    all_goals rfl
  all_goals rfl

/-- Settles O17: what each operation appends to `cap_log` and `sink_log`, and the calls of a turn. -/
theorem logsOnlyGrowAtTheEnd : Obligations.LogsOnlyGrowAtTheEnd := by
  refine ⟨fun i s t h hi => ⟨exec_sinkLog h hi, _, exec_capLog h hi⟩, fun s t h => ?_⟩
  obtain ⟨hp, k, e, hk, -, hq, rfl⟩ := encStep_next.mp h
  obtain ⟨-, -, -, -, -, -, -, -, -, hlog⟩ := sequence_keeps hq
  refine ⟨turnCalls k s.enc, hlog, length_turnCalls_le k s.enc, fun hs => ?_, rfl⟩
  obtain ⟨k', hin⟩ := hs.enc.inFlight hp
  obtain rfl : k = k' := Option.some.inj (hk.symm.trans hin.configured)
  exact hin.length_turnCalls hp

/-! ### The sources of the calls of unit CAP -/

theorem isResetState_eq_false_iff {o : Overflow} :
    isResetState o = false ↔ o = .first ∨ o = .armed ∨ o = .captured := by
  cases o <;> decide

/-- An interval is delivered outside the reset states, to a registered decoder, as the registers hold it (R161). -/
theorem mem_ivalCalls {p : Params} {c : Cap} {call : CapCall} (h : call ∈ ivalCalls p c) :
    isResetState c.overflow = false ∧
      ∃ dec ∈ c.decoders, call = .onInterval dec (readThisInterval p c) (readThisLevel c) := by
  unfold ivalCalls at h
  cases hr : isResetState c.overflow
  case true => simp [hr] at h
  case false =>
    rw [hr, if_neg Bool.false_ne_true] at h
    obtain ⟨dec, hdec, rfl⟩ := List.mem_map.mp h
    exact ⟨rfl, dec, hdec, rfl⟩

/-- An expected edge leaves the count one higher where it lands on the threshold (42_capture_events R134). -/
theorem edgeBody_pulseCount {p : Params} {c : Cap} (h : c.overflow = .first ∨ c.overflow = .armed) :
    (edgeBody p c).pulseCount = countUp c.pulseCount := by
  rcases h with ho | ho
  · rw [edgeBody_of_first ho]
    rfl
  · cases hi : c.ivalPending
    case true => rw [edgeBody_of_overrun ho hi]; rfl
    case false => rw [edgeBody_of_accepted ho hi]; rfl

theorem countUp_of_hitsThreshold {p : Params} {n : BitVec 8} (h : hitsThreshold p n = true) :
    countUp n = p.pulseThreshold ∧ (countUp n).toNat = n.toNat + 1 := by
  obtain ⟨hne, hhit⟩ := hitsThreshold_iff.mp h
  rw [countUp_eq, if_neg hne]
  refine ⟨hhit, ?_⟩
  bv_omega

/-- What EDGE_ISR logs: the threshold call of an expected edge, or the fatal call of an unexpected one. -/
theorem mem_edgeCalls {p : Params} {c : Cap} {call : CapCall} (h : call ∈ edgeCalls p c) :
    ((c.overflow = .first ∨ c.overflow = .armed) ∧ call = .writerDisable ∧ hitsThreshold p c.pulseCount = true) ∨
    ((c.overflow ≠ .first ∧ c.overflow ≠ .armed) ∧ call = .fatal fatalProtocol (overflowCode c.overflow)) := by
  unfold edgeCalls at h
  split at h
  case isTrue ho =>
    unfold countCalls at h
    split at h
    case isTrue hhit => exact .inl ⟨ho, List.mem_singleton.mp h, hhit⟩
    case isFalse => cases h
  case isFalse ho => exact .inr ⟨not_or.mp ho, List.mem_singleton.mp h⟩

/-- Settles O18: the calls an operation appends are those of `capCalls`, and only four operations have any. -/
theorem eachCapCallHasOneSource : Obligations.EachCapCallHasOneSource := by
  intro i s t calls h hi hlog call hmem
  obtain rfl : calls = capCalls i s := List.append_cancel_left (hlog.symm.trans (exec_capLog h hi))
  cases i with
  | edgeIsr =>
    rcases mem_edgeCalls hmem with ⟨ho, rfl, hhit⟩ | ⟨⟨hf, ha⟩, rfl⟩
    · obtain ⟨-, -, rfl⟩ := execEdgeIsr_next.mp h
      obtain ⟨hthreshold, hcount⟩ := countUp_of_hitsThreshold hhit
      rw [← edgeBody_pulseCount ho] at hthreshold hcount
      exact ⟨rfl, ho, hthreshold, hcount⟩
    · exact ⟨rfl, rfl, rfl, hf, ha⟩
  | runIval =>
    obtain ⟨hr, dec, hdec, rfl⟩ := mem_ivalCalls hmem
    exact ⟨rfl, hdec, isResetState_eq_false_iff.mp hr, fun _ => readThisInterval_some, fun _ => readThisLevel_some⟩
  | runReset1 =>
    obtain ⟨dec, hdec, rfl⟩ := List.mem_map.mp hmem
    exact ⟨rfl, hdec⟩
  | runWen =>
    obtain rfl := List.mem_singleton.mp hmem
    obtain ⟨ht, -⟩ := execRunWen_next.mp h
    exact ⟨rfl, ht⟩
  | _ => cases hmem

/-! ### The transition table of `overflow` -/

theorem edgeBody_overflow (p : Params) (c : Cap) : (edgeBody p c).overflow =
    match c.overflow with
    | .first => .captured
    | .armed => if c.ivalPending then .reset else .captured
    | o => o := by
  cases ho : c.overflow
  case first => rw [edgeBody_of_first ho]; rfl
  case armed =>
    cases hi : c.ivalPending
    case true => rw [edgeBody_of_overrun ho hi]; rfl
    case false => rw [edgeBody_of_accepted ho hi]; rfl
  all_goals
    rw [edgeBody_of_unexpected (by simp [ho]) (by simp [ho])]
    exact ho

theorem timeoutBody_overflow (p : Params) (c : Cap) : (timeoutBody p c).overflow =
    match c.overflow with
    | .armed => .resetQuiet
    | .captured => if c.capFlag then .resetQuiet else .armed
    | o => o := by
  cases ho : c.overflow
  case armed => rw [timeoutBody_of_armed ho]; rfl
  case captured =>
    cases hf : c.capFlag
    case true => rw [timeoutBody_of_captured_latched ho hf]; rfl
    case false => rw [timeoutBody_of_captured_quiet ho hf]; rfl
  all_goals
    rw [timeoutBody_of_no_window (by simp [ho]) (by simp [ho])]
    exact ho

theorem disableBody_overflow (c : Cap) : (disableBody c).overflow =
    match c.overflow with
    | .resetDisable => .resetDisable
    | _ => .resetDisableDeferred := by
  cases ho : c.overflow <;> simp [disableBody, ho]

theorem enableBody_overflow (c : Cap) : (enableBody c).overflow =
    match c.overflow with
    | .resetDisableDeferred => .reset
    | _ => .first := by
  cases ho : c.overflow
  case resetDisableDeferred => rw [enableBody_of_deferred ho]
  all_goals rw [enableBody_rearm (by simp [ho])]

theorem reset1Body_overflow (p : Params) (c : Cap) : (reset1Body p c).overflow =
    match c.overflow with
    | .reset => .reset
    | .resetDisableDeferred => .resetDisable
    | _ => .first := by
  cases ho : c.overflow
  case reset => rw [reset1Body_of_reset ho]; exact ho
  case resetDisableDeferred => rw [reset1Body_of_deferred ho]
  all_goals rw [reset1Body_rearm (by simp [ho]) (by simp [ho])]

theorem doReset2_overflow (c : Cap) : (doReset2 c).overflow =
    match c.overflow with
    | .resetDisableDeferred => .resetDisable
    | _ => .first := by
  cases ho : c.overflow
  case resetDisableDeferred => rw [doReset2_deferred ho]
  all_goals rw [doReset2_rearm (by simp [ho])]

/-- Settles O20: the rows of the table, one lemma each, and the operations that have none. -/
theorem overflowFollowsTheTransitionTable : Obligations.OverflowFollowsTheTransitionTable := by
  intro i s t h
  cases i with
  | init => obtain rfl := execInit_next.mp h; rfl
  | decRegister id => obtain ⟨-, -, rfl⟩ := execDecRegister_next.mp h; rfl
  | ttSetup sync codes => obtain ⟨-, -, rfl⟩ := execTtSetup_next.mp h; rfl
  | cfgFormat w order pmode => obtain ⟨-, mode, -, rfl⟩ := execCfgFormat_next.mp h; rfl
  | cfgSink param => obtain ⟨-, rfl⟩ := execCfgSink_next.mp h; rfl
  | encode base len => obtain ⟨k, -, -, -, -, rfl⟩ := execEncode_next.mp h; rfl
  | lineEdge level => obtain rfl := execLineEdge_next.mp h; rfl
  | tick n => obtain rfl := execTick_next.mp h; exact tickBy_overflow _ _ _
  | edgeIsr =>
    obtain ⟨-, -, rfl⟩ := execEdgeIsr_next.mp h
    refine (edgeBody_overflow _ _).trans ?_
    cases s.cap.overflow <;> rfl
  | timeoutIsr =>
    obtain ⟨-, rfl⟩ := execTimeoutIsr_next.mp h
    refine (timeoutBody_overflow _ _).trans ?_
    cases s.cap.overflow <;> rfl
  | rdDisable =>
    obtain rfl := execRdDisable_next.mp h
    refine (disableBody_overflow _).trans ?_
    cases s.cap.overflow <;> rfl
  | rdEnable =>
    obtain rfl := execRdEnable_next.mp h
    refine (enableBody_overflow _).trans ?_
    cases s.cap.overflow <;> rfl
  | frameQueued => obtain rfl := execFrameQueued_next.mp h; rfl
  | runIval => obtain ⟨-, rfl⟩ := execRunIval_next.mp h; simp only [ivalBody_eq]
  | runReset1 =>
    obtain ⟨-, rfl⟩ := execRunReset1_next.mp h
    refine (reset1Body_overflow _ _).trans ?_
    cases s.cap.overflow <;> rfl
  | runReset2 =>
    obtain ⟨-, rfl⟩ := execRunReset2_next.mp h
    refine (doReset2_overflow _).trans ?_
    cases s.cap.overflow <;> rfl
  | runWen => obtain ⟨-, rfl⟩ := execRunWen_next.mp h; rfl

/-! ### The guarded operations -/

theorem guarded_next_or_refused {g : Bool} {u : State} {r : Refusal} :
    (∃ t, (if g then (Host.Outcome.next u : Host.Outcome State Fault Refusal) else .refused r) = .next t) ∨
      (if g then (Host.Outcome.next u : Host.Outcome State Fault Refusal) else .refused r) = .refused r := by
  cases g
  case true => exact .inl ⟨u, rfl⟩
  case false => exact .inr rfl

/-- Settles O22: each of the six is a transition behind its enabling condition. -/
theorem guardedOperationsRunExactlyWhenEnabled : Obligations.GuardedOperationsRunExactlyWhenEnabled := by
  refine fun s => ⟨⟨?_, ?_⟩, ⟨?_, ?_⟩, ⟨?_, ?_⟩, ⟨?_, ?_⟩, ⟨?_, ?_⟩, ⟨?_, ?_⟩, fun i hi => ?_⟩
  · exact fun ⟨_, h⟩ => have ⟨hf, hie, _⟩ := execEdgeIsr_next.mp h; ⟨hf, hie⟩
  · exact fun ⟨hf, hie⟩ => ⟨_, execEdgeIsr_next.mpr ⟨hf, hie, rfl⟩⟩
  · exact fun ⟨_, h⟩ => (execTimeoutIsr_next.mp h).1
  · exact fun hf => ⟨_, execTimeoutIsr_next.mpr ⟨hf, rfl⟩⟩
  · exact fun ⟨_, h⟩ => (execRunIval_next.mp h).1
  · exact fun hp => ⟨_, execRunIval_next.mpr ⟨hp, rfl⟩⟩
  · exact fun ⟨_, h⟩ => (execRunReset1_next.mp h).1
  · exact fun hp => ⟨_, execRunReset1_next.mpr ⟨hp, rfl⟩⟩
  · exact fun ⟨_, h⟩ => (execRunReset2_next.mp h).1
  · exact fun ht => ⟨_, execRunReset2_next.mpr ⟨ht, rfl⟩⟩
  · exact fun ⟨_, h⟩ => (execRunWen_next.mp h).1
  · exact fun ht => ⟨_, execRunWen_next.mpr ⟨ht, rfl⟩⟩
  · simp only [List.mem_cons, List.not_mem_nil, or_false] at hi
    rcases hi with rfl | rfl | rfl | rfl | rfl | rfl <;> exact guarded_next_or_refused

end Sys2Proof.Machine
end

section
/-! PROOFS. The reset states: suspension, the discarded interval, merged requests
(spec/70_reset_and_hazards.md R213, R217, R218; spec/44_deferred_tasks.md R162, R166). -/

namespace Sys2Proof.Machine

/-! ### The suspended state -/

/-- With no window, no reset work and capture masked, only RD_ENABLE and INIT move `overflow` from RESET_DISABLE. -/
theorem exec_overflow_of_suspended {i : Instr} {s t : State} (hs : s.Inv) (ho : s.cap.overflow = .resetDisable)
    (h : exec i s = .next t) (hinit : i ≠ .init) (henable : i ≠ .rdEnable) : t.cap.overflow = .resetDisable := by
  have htable := overflowFollowsTheTransitionTable i s t h
  obtain ⟨hfirst, hsecond⟩ := hs.cap.suspendedStable ho
  rw [ho] at htable
  cases i with
  | init => exact absurd rfl hinit
  | rdEnable => exact absurd rfl henable
  | runReset1 =>
    obtain ⟨hp, -⟩ := execRunReset1_next.mp h
    exact absurd (hfirst.symm.trans hp) Bool.false_ne_true
  | runReset2 =>
    obtain ⟨ht, -⟩ := execRunReset2_next.mp h
    exact absurd (hsecond.symm.trans ht) nofun
  | _ => exact htable

/-- Settles O21: the state stays, and the invariant masks the capture event in it. -/
theorem suspendedUntilEnabled : Obligations.SuspendedUntilEnabled := by
  intro i s t hs ho h hinit henable
  have ho' := exec_overflow_of_suspended hs ho h hinit henable
  have hie : t.cap.capIe = false := (hs.exec h).cap.capIe_eq_false (by simp [ho']) (by simp [ho'])
  refine ⟨ho', hie, fun u hu => ?_⟩
  obtain ⟨-, hie', -⟩ := execEdgeIsr_next.mp hu
  exact Bool.false_ne_true (hie.symm.trans hie')

/-! ### Before the broadcast -/

/-- In a reset state neither handler is enabled. -/
theorem Cap.Inv.handlers_disabled {p : Params} {c : Cap} (h : Cap.Inv p c) (hr : isResetState c.overflow = true) :
    c.capIe = false ∧ c.cmpFlag = false := by
  have hne (o : Overflow) (ho : isResetState o = false) : c.overflow ≠ o :=
    fun heq => Bool.false_ne_true (ho.symm.trans (heq ▸ hr))
  exact ⟨h.capIe_eq_false (hne _ rfl) (hne _ rfl), (h.no_window (hne _ rfl) (hne _ rfl)).2⟩

/-- A disable request keeps a pending first phase pending. -/
theorem disableBody_reset1Pending {c : Cap} (h : c.reset1Pending = true) : (disableBody c).reset1Pending = true := by
  unfold disableBody
  split
  case h_1 | h_2 | h_3 | h_4 => rfl
  all_goals exact h

theorem isResetState_disableBody (c : Cap) : isResetState (disableBody c).overflow = true := by
  rw [disableBody_overflow]
  cases c.overflow <;> rfl

/-- Settles O60: by operation; the handlers and the second phase are disabled, and the interval task discards. -/
theorem noIntervalBeforeTheBroadcast : Obligations.NoIntervalBeforeTheBroadcast := by
  intro i s t hs hp hr h hinit henable hreset
  obtain ⟨hie, hcmp⟩ := hs.cap.handlers_disabled hr
  cases i with
  | init => exact absurd rfl hinit
  | rdEnable => exact absurd rfl henable
  | runReset1 => exact absurd rfl hreset
  | edgeIsr =>
    obtain ⟨-, hie', -⟩ := execEdgeIsr_next.mp h
    exact absurd (hie.symm.trans hie') Bool.false_ne_true
  | timeoutIsr =>
    obtain ⟨hcmp', -⟩ := execTimeoutIsr_next.mp h
    exact absurd (hcmp.symm.trans hcmp') Bool.false_ne_true
  | runReset2 =>
    obtain ⟨ht, -⟩ := execRunReset2_next.mp h
    exact absurd ((hs.cap.reset2Timer_eq_none_of_pending hp).symm.trans ht) nofun
  | rdDisable =>
    obtain rfl := execRdDisable_next.mp h
    exact ⟨isResetState_disableBody _, disableBody_reset1Pending hp, .inl (disableBody_capLog _)⟩
  | runIval =>
    obtain ⟨-, rfl⟩ := execRunIval_next.mp h
    rw [ivalBody_of_reset hr]
    exact ⟨hr, hp, .inl rfl⟩
  | runWen => obtain ⟨-, rfl⟩ := execRunWen_next.mp h; exact ⟨hr, hp, .inr rfl⟩
  | tick n =>
    obtain rfl := execTick_next.mp h
    simp only [tickBy_overflow, tickBy_reset1Pending, tickBy_capLog, hr, hp, true_or, and_self]
  | decRegister id => obtain ⟨-, -, rfl⟩ := execDecRegister_next.mp h; exact ⟨hr, hp, .inl rfl⟩
  | ttSetup sync codes => obtain ⟨-, -, rfl⟩ := execTtSetup_next.mp h; exact ⟨hr, hp, .inl rfl⟩
  | cfgFormat w order pmode => obtain ⟨-, mode, -, rfl⟩ := execCfgFormat_next.mp h; exact ⟨hr, hp, .inl rfl⟩
  | cfgSink param => obtain ⟨-, rfl⟩ := execCfgSink_next.mp h; exact ⟨hr, hp, .inl rfl⟩
  | encode base len => obtain ⟨k, -, -, -, -, rfl⟩ := execEncode_next.mp h; exact ⟨hr, hp, .inl rfl⟩
  | lineEdge level => obtain rfl := execLineEdge_next.mp h; exact ⟨hr, hp, .inl rfl⟩
  | frameQueued => obtain rfl := execFrameQueued_next.mp h; exact ⟨hr, hp, .inl rfl⟩

/-- The same for any sequence of such operations: the first phase stays pending, and only `writer_enable` is logged. -/
theorem execAll_before_broadcast {ops : List Instr} {s t : State} (hs : s.Inv) (hp : s.cap.reset1Pending = true)
    (hr : isResetState s.cap.overflow = true) (hops : ∀ i ∈ ops, i ≠ .init ∧ i ≠ .rdEnable ∧ i ≠ .runReset1)
    (h : execAll ops s = .next t) : t.cap.reset1Pending = true ∧
      ∃ calls, t.cap.capLog = s.cap.capLog ++ calls ∧ ∀ call ∈ calls, call = .writerEnable := by
  induction ops generalizing s with
  | nil =>
    cases h
    exact ⟨hp, [], (List.append_nil _).symm, nofun⟩
  | cons i ops ih =>
    obtain ⟨u, hu, hrest⟩ := execAll_cons_next.mp h
    obtain ⟨⟨hinit, henable, hreset⟩, hops⟩ := List.forall_mem_cons.mp hops
    obtain ⟨hr', hp', hlog⟩ := noIntervalBeforeTheBroadcast i s u hs hp hr hu hinit henable hreset
    obtain ⟨hpt, calls, hcalls, honly⟩ := ih (hs.exec hu) hp' hr' hops hrest
    refine ⟨hpt, ?_⟩
    rcases hlog with hlog | hlog
    · exact ⟨calls, hlog ▸ hcalls, honly⟩
    · exact ⟨.writerEnable :: calls, by rw [hcalls, hlog, List.append_assoc]; rfl, List.forall_mem_cons.mpr ⟨rfl, honly⟩⟩

/-! ### Overrun -/

/-- The overrun as a transition. -/
theorem exec_edgeIsr_overrun {s a : State} (ho : s.cap.overflow = .armed) (hi : s.cap.ivalPending = true)
    (h : exec .edgeIsr s = .next a) :
    a = { s with cap := enterReset .reset (countEdge s.params { s.cap with capFlag := false }) } := by
  obtain ⟨-, -, rfl⟩ := execEdgeIsr_next.mp h
  rw [edgeBody_of_overrun ho hi]

/-- Outside the reset states a pending interval is delivered (44_deferred_tasks R161). -/
theorem runIval_delivers {b : State} {d : Nat} {l : Bool} (hr : isResetState b.cap.overflow = false)
    (hi : b.cap.ivalPending = true) (hd : b.cap.thisInterval = some d) (hl : b.cap.thisLevel = some l) :
    ∃ c, exec .runIval b = .next c ∧
      c.cap.capLog = b.cap.capLog ++ b.cap.decoders.map fun dec => .onInterval dec d l := by
  refine ⟨_, execRunIval_next.mpr ⟨hi, rfl⟩, ?_⟩
  rw [ivalBody_of_capturing hr, readThisInterval_some hd, readThisLevel_some hl]
  rfl

/-- RD_ENABLE in RESET re-arms capture at FIRST, with the pending interval as it stands (70_reset_and_hazards R209). -/
theorem rdEnable_then_runIval {a : State} {d : Nat} {l : Bool} (ho : a.cap.overflow = .reset)
    (hi : a.cap.ivalPending = true) (hd : a.cap.thisInterval = some d) (hl : a.cap.thisLevel = some l) :
    ∃ b c, exec .rdEnable a = .next b ∧ exec .runIval b = .next c ∧
      c.cap.capLog = a.cap.capLog ++ a.cap.decoders.map fun dec => .onInterval dec d l := by
  obtain ⟨-, hrearm⟩ := rdEnableCancelsOrRearms a
  obtain ⟨b, hb, hro, hbi, hbd, hbl, hlog, hdec⟩ : ∃ b, exec .rdEnable a = .next b ∧
      isResetState b.cap.overflow = false ∧ b.cap.ivalPending = true ∧ b.cap.thisInterval = some d ∧
      b.cap.thisLevel = some l ∧ b.cap.capLog = a.cap.capLog ∧ b.cap.decoders = a.cap.decoders :=
    ⟨_, hrearm (by simp [ho]), rfl, hi, hd, hl, rfl, rfl⟩
  obtain ⟨c, hc, hdelivered⟩ := runIval_delivers hro hbi hbd hbl
  exact ⟨b, c, hb, hc, by rw [hdelivered, hlog, hdec]⟩

/-- Settles O48: the interval task finds RESET and discards, the broadcast comes first, and RD_ENABLE re-arms capture with
the overtaken interval still pending. -/
theorem overrunDispatchesNoInterval : Obligations.OverrunDispatchesNoInterval := by
  intro s a ho hi h
  have ha := exec_edgeIsr_overrun ho hi h
  refine ⟨fun b hb => ?_, fun hs ops b hops hb => ?_, fun d l hd hl => ?_⟩
  · obtain ⟨-, rfl⟩ := execRunIval_next.mp hb
    rw [ivalBody_of_reset (by rw [ha]; rfl)]
    exact ⟨rfl, rfl, fun u hu => Bool.false_ne_true (execRunIval_next.mp hu).1⟩
  · obtain ⟨hp, hcalls⟩ := execAll_before_broadcast (hs.exec h) (by rw [ha]; rfl) (by rw [ha]; rfl) hops hb
    exact ⟨hcalls, _, execRunReset1_next.mpr ⟨hp, rfl⟩, reset1Body_capLog _ _, (reset1Body_takes _ _).2⟩
  · have hafter := rdEnable_then_runIval (a := a) (by rw [ha]; rfl) (by rw [ha]; exact hi) (by rw [ha]; exact hd)
      (by rw [ha]; exact hl)
    rw [ha] at hafter ⊢
    exact hafter

/-! ### Merged requests and the order of the tasks -/

/-- A second disable request finds the memo, or the suspended state, and changes nothing (43_requests R150). -/
theorem disableBody_idem (c : Cap) : disableBody (disableBody c) = disableBody c := by
  refine disableBody_of_disabled ?_
  rw [disableBody_overflow]
  cases c.overflow <;> simp

/-- Settles O54: the second request changes nothing, and the one first phase takes what is pending. -/
theorem requestsMergeIntoOneBroadcast : Obligations.RequestsMergeIntoOneBroadcast := by
  intro s a b c hp ha hb hc
  obtain rfl := execRdDisable_next.mp ha
  obtain rfl := execRdDisable_next.mp hb
  have hmerged : disableBody { disableBody { s.cap with started := true } with started := true } =
      disableBody { s.cap with started := true } := by
    rw [disableBody_started, disableBody_idem, disableBody_started]
  obtain ⟨-, rfl⟩ := execRunReset1_next.mp hc
  refine ⟨?_, ?_, fun u hu => ?_⟩
  · simp only [hmerged]
  · simp only [reset1Body_capLog, disableBody_capLog, disableBody_keeps]
  · obtain ⟨hp', -⟩ := execRunReset1_next.mp hu
    exact Bool.false_ne_true ((reset1Body_takes _ _).1.symm.trans hp')

/-- Settles O59: in a reset state the interval task only clears its flag, which the first phase clears too. -/
theorem intervalTaskOrderDoesNotMatterInReset : Obligations.IntervalTaskOrderDoesNotMatterInReset := by
  intro s a b ho hp ha hb
  have hr : isResetState s.cap.overflow = true := by rcases ho with ho | ho | ho | ho <;> rw [ho] <;> rfl
  obtain ⟨-, rfl⟩ := execRunIval_next.mp ha
  obtain ⟨-, rfl⟩ := execRunReset1_next.mp hb
  refine execRunReset1_next.mpr ⟨hp, ?_⟩
  rw [ivalBody_of_reset hr]
  rfl

end Sys2Proof.Machine
end

section
/-! PROOFS. The passage of time: the closed form of TICK is its loop, ticks add up, a window and a delay timer end at their
tick (spec/42_capture_events.md R131, R132, spec/44_deferred_tasks.md R167). -/

namespace Sys2Proof.Machine

/-! ### The compare match -/

/-- The difference of two times takes back what was added to the earlier one, modulo `2^TW` (R222). -/
theorem ticksSub_ticksAdd (p : Params) (t n : Nat) : ticksSub p (ticksAdd p t n) t = n % 2 ^ p.tw := by
  have hpos := Nat.two_pow_pos p.tw
  unfold ticksSub ticksAdd
  generalize 2 ^ p.tw = m at *
  have hsplit : t + n + (m - t % m) = n + m * (t / m + 1) := by
    have := Nat.div_add_mod t m
    have := Nat.mod_lt t hpos
    rw [Nat.mul_add, Nat.mul_one]
    omega
  rw [Nat.mod_add_mod, hsplit, Nat.add_mul_mod_self_left]

/-- And adding the difference to the earlier time gives the later one. -/
theorem ticksAdd_ticksSub {p : Params} {t v : Nat} (hv : v < 2 ^ p.tw) : ticksAdd p t (ticksSub p v t) = v := by
  have hpos := Nat.two_pow_pos p.tw
  unfold ticksSub ticksAdd
  generalize 2 ^ p.tw = m at *
  have hsplit : t + (v + (m - t % m)) = v + m * (t / m + 1) := by
    have := Nat.div_add_mod t m
    have := Nat.mod_lt t hpos
    rw [Nat.mul_add, Nat.mul_one]
    omega
  rw [Nat.add_mod_mod, hsplit, Nat.add_mul_mod_self_left, Nat.mod_eq_of_lt hv]

theorem ticksUntil_pos (p : Params) (now v : Nat) : 1 ≤ ticksUntil p now v := by
  have hpos := Nat.two_pow_pos p.tw
  unfold ticksUntil
  split <;> omega

/-- After `ticksUntil` ticks the timer equals the value waited for. -/
theorem ticksAdd_ticksUntil {p : Params} {now v : Nat} (hv : v < 2 ^ p.tw) : ticksAdd p now (ticksUntil p now v) = v := by
  unfold ticksUntil
  split
  case isTrue h0 =>
    have hback := ticksAdd_ticksSub (t := now) hv
    rw [h0] at hback
    rw [← hback, ticksAdd, ticksAdd, Nat.add_mod_right, Nat.add_zero]
  case isFalse => exact ticksAdd_ticksSub hv

/-- And not after fewer. -/
theorem ticksUntil_le {p : Params} {now j : Nat} (hj : 1 ≤ j) : ticksUntil p now (ticksAdd p now j) ≤ j := by
  unfold ticksUntil
  rw [ticksSub_ticksAdd]
  split
  case isTrue h0 => exact Nat.le_of_dvd hj (Nat.dvd_of_mod_eq_zero h0)
  case isFalse => exact Nat.mod_le j _

/-- The closed form of the match: some one of the next `n` ticks brings the timer to the armed compare (R131). -/
theorem compareHit_iff {p : Params} {n : Nat} {c : Cap} : compareHit p n c = true ↔
    c.cmpArmed = true ∧ ∃ j, 1 ≤ j ∧ j ≤ n ∧ ticksAdd p c.now j = readCmp p c := by
  rw [compareHit, Bool.and_eq_true, decide_eq_true_eq]
  refine and_congr_right fun _ => ⟨fun ⟨hv, hle⟩ => ?_, fun ⟨j, hj, hle, heq⟩ => ?_⟩
  · exact ⟨_, ticksUntil_pos p _ _, hle, ticksAdd_ticksUntil hv⟩
  · rw [← heq]
    exact ⟨ticksAdd_lt p _ _, (ticksUntil_le hj).trans hle⟩

theorem compareHit_zero (p : Params) (c : Cap) : compareHit p 0 c = false := by
  rw [← Bool.not_eq_true, compareHit_iff]
  rintro ⟨-, j, hj, hle, -⟩
  omega

/-! ### The fields TICK writes -/

theorem toNat_ofNat_sub (k : BitVec 16) (n : Nat) : (BitVec.ofNat 16 (k.toNat - n)).toNat = k.toNat - n := by
  have := k.isLt
  rw [BitVec.toNat_ofNat, Nat.mod_eq_of_lt (by omega)]

@[simp] theorem countdown_zero (t : Option (BitVec 16)) : countdown 0 t = t := by
  cases t <;> simp [countdown]

theorem countdown_countdown (a b : Nat) (t : Option (BitVec 16)) : countdown b (countdown a t) = countdown (a + b) t := by
  cases t with
  | none => rfl
  | some k => simp only [countdown, Option.map_some, toNat_ofNat_sub, Nat.sub_sub]

theorem countdownOnce_eq (t : Option (BitVec 16)) : countdownOnce t = countdown 1 t := by
  refine congrArg (t.map ·) (funext fun k => BitVec.eq_of_toNat_eq ?_)
  rw [toNat_ofNat_sub]
  split
  case isTrue h0 => rw [h0]; rfl
  case isFalse => bv_omega

@[simp] theorem tickBy_cmpFlag (p : Params) (n : Nat) (c : Cap) :
    (tickBy p n c).cmpFlag = (c.cmpFlag || compareHit p n c) := by
  cases n with
  | zero => rw [tickBy_zero, compareHit_zero, Bool.or_false]
  | succ n => rfl

@[simp] theorem tickBy_reset2Timer (p : Params) (n : Nat) (c : Cap) :
    (tickBy p n c).reset2Timer = countdown n c.reset2Timer := by
  cases n with
  | zero => rw [tickBy_zero, countdown_zero]
  | succ n => rfl

@[simp] theorem tickBy_wenTimer (p : Params) (n : Nat) (c : Cap) : (tickBy p n c).wenTimer = countdown n c.wenTimer := by
  cases n with
  | zero => rw [tickBy_zero, countdown_zero]
  | succ n => rfl

/-! ### TICK and its loop -/

theorem ticksAdd_ticksAdd (p : Params) (t a b : Nat) : ticksAdd p (ticksAdd p t a) b = ticksAdd p t (a + b) := by
  rw [ticksAdd, ticksAdd, ticksAdd, Nat.mod_add_mod, Nat.add_assoc]

theorem tickOnce_eq_tickBy (p : Params) (c : Cap) : tickOnce p c = tickBy p 1 c := by
  have hhit : (c.cmpArmed && decide (ticksAdd p c.now 1 = readCmp p c)) = compareHit p 1 c := by
    rw [Bool.eq_iff_iff, compareHit_iff, Bool.and_eq_true, decide_eq_true_eq]
    refine and_congr_right fun _ => ⟨fun h => ⟨1, le_refl 1, le_refl 1, h⟩, fun ⟨j, hj, hle, h⟩ => ?_⟩
    obtain rfl : j = 1 := Nat.le_antisymm hle hj
    exact h
  rw [tickBy_succ, tickOnce, hhit, countdownOnce_eq, countdownOnce_eq]

/-- Some one of `a + b` ticks matches when one of the first `a` does, or one of the `b` after them. -/
theorem compareHit_add {p : Params} {a b : Nat} {c c' : Cap} (ha : 1 ≤ a) (hnow : c'.now = ticksAdd p c.now a)
    (harmed : c'.cmpArmed = c.cmpArmed) (hcmp : readCmp p c' = readCmp p c) :
    (compareHit p a c || compareHit p b c') = compareHit p (a + b) c := by
  rw [Bool.eq_iff_iff, Bool.or_eq_true, compareHit_iff, compareHit_iff, compareHit_iff, hnow, harmed, hcmp,
    ← and_or_left]
  refine and_congr_right fun _ => ⟨?_, fun ⟨j, hj, hle, h⟩ => ?_⟩
  · rintro (⟨j, hj, hle, h⟩ | ⟨j, hj, hle, h⟩)
    · exact ⟨j, hj, by omega, h⟩
    · exact ⟨a + j, by omega, by omega, by rw [← ticksAdd_ticksAdd]; exact h⟩
  · by_cases hja : j ≤ a
    · exact .inl ⟨j, hj, hja, h⟩
    · refine .inr ⟨j - a, by omega, by omega, ?_⟩
      rw [ticksAdd_ticksAdd, Nat.add_sub_of_le (by omega)]
      exact h

/-- Ticks add up, whatever the timer holds. -/
theorem tickBy_tickBy (p : Params) (a b : Nat) (c : Cap) : tickBy p b (tickBy p a c) = tickBy p (a + b) c := by
  cases a with
  | zero => rw [tickBy_zero, Nat.zero_add]
  | succ a =>
    cases b with
    | zero => rw [tickBy_zero, Nat.add_zero]
    | succ b =>
      have hhit := compareHit_add (p := p) (b := b + 1) (c := c) (c' := tickBy p (a + 1) c) (Nat.succ_pos a) rfl rfl rfl
      rw [tickBy_succ p b, tickBy_cmpFlag, Bool.or_assoc, hhit]
      simp only [tickBy_succ p a, ticksAdd_ticksAdd, countdown_countdown]
      rfl

/-- Settles O40: one tick is the closed form of one tick, and the closed form adds up. -/
theorem tickIsItsLoop : Obligations.TickIsItsLoop := by
  intro p n c
  induction n generalizing c with
  | zero => rfl
  | succ n ih => rw [tickLoop, ← ih, tickOnce_eq_tickBy, tickBy_tickBy, Nat.add_comm]

theorem exec_tick (n : BitVec 32) (s : State) :
    exec (.tick n) s = .next { s with cap := tickBy s.params n.toNat s.cap } := execTick_next.mpr rfl

/-- Settles O41: the operand of the sum is the sum of the operands. -/
theorem ticksAddUp : Obligations.TicksAddUp := by
  intro a b s t hsum ha
  obtain rfl := execTick_next.mp ha
  have hsum' : (a + b).toNat = a.toNat + b.toNat := by rw [BitVec.toNat_add, Nat.mod_eq_of_lt hsum]
  rw [exec_tick, exec_tick, hsum', ← tickBy_tickBy]

/-- Any number of ticks, none included, where the timer holds `TW` bits. -/
theorem tickBy_of_now_fits {p : Params} {c : Cap} (n : Nat) (h : c.now < 2 ^ p.tw) : tickBy p n c = { c with
    now := ticksAdd p c.now n
    cmpFlag := c.cmpFlag || compareHit p n c
    reset2Timer := countdown n c.reset2Timer
    wenTimer := countdown n c.wenTimer } := by
  cases n with
  | zero =>
    have hnow : ticksAdd p c.now 0 = c.now := Nat.mod_eq_of_lt h
    simp only [tickBy_zero, hnow, compareHit_zero, Bool.or_false, countdown_zero]
  | succ n => rfl

/-- Settles O39: the closed form, with the match in the words of R131. -/
theorem tickAdvancesTimeOnly : Obligations.TickAdvancesTimeOnly := by
  intro n s hnow
  refine ⟨_, s.cap.cmpFlag || compareHit s.params n.toNat s.cap, exec_tick n s, ?_, ?_, ?_, ?_⟩
  · rw [tickBy_of_now_fits n.toNat hnow]
    rfl
  · exact fun hf => Bool.or_eq_true_iff.mpr (.inl hf)
  · intro harmed
    rw [compareHit, harmed, Bool.false_and, Bool.or_false]
  · intro harmed v hv
    rw [Bool.or_eq_true, compareHit_iff, readCmp_some hv, and_iff_right harmed]
    rfl

/-- Settles O42: the timer equals the compare register first at the `T`-th tick. -/
theorem windowEndsExactlyAtItsTick : Obligations.WindowEndsExactlyAtItsTick := by
  intro p w n c hw hlt
  have huntil : ticksUntil p c.now (ticksAdd p c.now w) = w := by
    rw [ticksUntil, ticksSub_ticksAdd, Nat.mod_eq_of_lt hlt, if_neg (by omega)]
  rw [tickBy_cmpFlag, compareHit, readCmp_some (armCmp_cmp p w c)]
  simp only [armCmp_cmpFlag, armCmp_cmpArmed, armCmp_now, huntil, ticksAdd_lt, true_and, Bool.false_or, Bool.true_and]

/-- A timer at `k` reads 0 after `n` ticks exactly when `k` ticks have passed. -/
theorem countdown_eq_zero_iff {n : Nat} {k : BitVec 16} : countdown n (some k) = some 0 ↔ k.toNat ≤ n := by
  rw [countdown, Option.map_some, Option.some.injEq, ← BitVec.toNat_inj, toNat_ofNat_sub]
  exact Nat.sub_eq_zero_iff_le

/-- Settles O43: each task is enabled where its timer reads 0. -/
theorem delayTimersEnableAfterExactlyTheirDelay : Obligations.DelayTimersEnableAfterExactlyTheirDelay := by
  intro n k s t h
  obtain rfl := execTick_next.mp h
  obtain ⟨-, -, -, -, hreset2, hwen, -⟩ := guardedOperationsRunExactlyWhenEnabled
    { s with cap := tickBy s.params n.toNat s.cap }
  refine ⟨fun hk => hwen.trans ?_, fun hk => hreset2.trans ?_⟩
  · rw [tickBy_wenTimer, hk, countdown_eq_zero_iff]
  · rw [tickBy_reset2Timer, hk, countdown_eq_zero_iff]

end Sys2Proof.Machine
end

section
/-! PROOFS. The configuration operations, and ENCODE with the calls it makes by their position (spec/40_config.md R101 to
R105, spec/41_encoder.md R110 to R121). -/

namespace Sys2Proof.Machine

/-! ### Configuration -/

/-- Settles O23: the two conditions of DEC_REGISTER, the closed list named first. -/
theorem decRegisterAppendsUntilClosed : Obligations.DecRegisterAppendsUntilClosed := by
  refine fun id s => ⟨fun hs hfit => execDecRegister_next.mpr ⟨hs, hfit, rfl⟩, fun hs => ?_, fun hs hfull => ?_⟩
  · exact if_pos hs
  · exact (if_neg (by rw [hs]; exact Bool.false_ne_true)).trans (if_pos hfull)

theorem encodeBusy_eq_false {e : Enc} (h : e.phase = .idle) : encodeBusy e = false := decide_eq_false (not_not.mpr h)

theorem encodeBusy_eq_true {e : Enc} (h : e.phase ≠ .idle) : encodeBusy e = true := decide_eq_true h

/-- Settles O24: with no encode in flight only the range of the code array is asked for. -/
theorem ttSetupLoadsTheTable : Obligations.TtSetupLoadsTheTable := by
  refine fun sync codes s hp => ⟨fun hin => ?_, fun hout => ?_⟩
  · exact execTtSetup_next.mpr ⟨hp, decide_eq_true hin, rfl⟩
  · change execTtSetup sync codes s = _
    have hrange : codesInRange codes = false := decide_eq_false (by omega)
    simp only [execTtSetup, encodeBusy_eq_false hp, hrange, Bool.false_eq_true, if_false]

/-- Settles O25: each of the five parity codes names its mode, and the three others none. -/
theorem cfgFormatWritesTheFormat : Obligations.CfgFormatWritesTheFormat := by
  refine fun w order pmode s hp => ⟨fun mode hmode => ?_, fun hreserved => ?_⟩
  · have hcode : parityOfCode pmode = some mode := by
      simp only [List.mem_cons, Prod.mk.injEq, List.not_mem_nil, or_false] at hmode
      rcases hmode with ⟨rfl, rfl⟩ | ⟨rfl, rfl⟩ | ⟨rfl, rfl⟩ | ⟨rfl, rfl⟩ | ⟨rfl, rfl⟩ <;> rfl
    have horder : bitOrderOfCode order = if order = 1 then .lsbFirst else .msbFirst := by revert order; decide
    refine execCfgFormat_next.mpr ⟨hp, mode, hcode, ?_⟩
    rw [horder]
  · have hcode : parityOfCode pmode = none := by revert pmode; decide
    change execCfgFormat w order pmode s = _
    simp only [execCfgFormat, encodeBusy_eq_false hp, hcode, Bool.false_eq_true, if_false]

/-- Settles O26: CFG_SINK asks only that no encode is in flight. -/
theorem cfgSinkWritesTheParameter : Obligations.CfgSinkWritesTheParameter :=
  fun _ _ hp => execCfgSink_next.mpr ⟨hp, rfl⟩

/-- Settles O27: each of the four checks for an encode in flight first. -/
theorem configurationIsFrozenDuringAnEncode : Obligations.ConfigurationIsFrozenDuringAnEncode := by
  intro s hp
  have hbusy := encodeBusy_eq_true hp
  refine ⟨fun sync codes => if_pos hbusy, fun w order pmode => if_pos hbusy, fun param => if_pos hbusy,
    fun base len => ?_⟩
  change execEncode base len s = _
  simp only [execEncode, encodeCheck, hbusy, if_true]

/-! ### When ENCODE goes ahead -/

/-- The words of 41_encoder R119 are the checks of the model. -/
theorem encodeReady_iff {base : Addr} {len : BitVec 24} {e : Enc} {k : EncConfig} : EncodeReady base len e k ↔
    e.phase = .idle ∧ e.config = some k ∧ widthLegal k.width = true ∧ bufferInRange base len = true := by
  rw [config_eq_some_iff, widthLegal_iff, bufferInRange_iff]
  constructor
  · exact fun h => ⟨h.idle, ⟨h.times, h.sync, h.width, h.order, h.parity, h.param⟩, h.legal, h.inBuf⟩
  · rintro ⟨hidle, ⟨htimes, hsync, hwidth, horder, hparity, hparam⟩, hlegal, hin⟩
    exact ⟨hidle, htimes, hsync, hwidth, horder, hparity, hparam, hlegal, hin⟩

/-- ENCODE of a ready state, in either granularity. -/
theorem exec_encode_ready {base : Addr} {len : BitVec 24} {s : State} {k : EncConfig} (h : EncodeReady base len s.enc k) :
    exec (.encode base len) s = .next { s with
      enc := if s.params.sequenced then encodeStart k base len s.enc else encodeAtOnce k s.buf base len s.enc } := by
  obtain ⟨hidle, hk, hw, hb⟩ := encodeReady_iff.mp h
  exact execEncode_next.mpr ⟨k, hidle, hk, hw, hb, rfl⟩

/-- Settles O28: ENCODE stops only by a refusal of its check, which passes exactly when the state is ready. -/
theorem encodeRunsExactlyWhenReady : Obligations.EncodeRunsExactlyWhenReady := by
  refine fun base len s => ⟨⟨fun ⟨t, h⟩ => ?_, fun ⟨k, h⟩ => ⟨_, exec_encode_ready h⟩⟩, fun hnot => ?_⟩
  · obtain ⟨k, hidle, hk, hw, hb, -⟩ := execEncode_next.mp h
    exact ⟨k, encodeReady_iff.mpr ⟨hidle, hk, hw, hb⟩⟩
  · change ∃ r, execEncode base len s = .refused r
    unfold execEncode
    cases hcheck : encodeCheck base len s.enc with
    | error r => exact ⟨r, rfl⟩
    | ok k => exact absurd ⟨k, encodeReady_iff.mpr (encodeCheck_ok_iff.mp hcheck)⟩ hnot

/-- Settles O30: in the stepwise form a ready ENCODE is its start action. -/
theorem sequencedEncodeStartsTheSequencer : Obligations.SequencedEncodeStartsTheSequencer := by
  intro base len s k hseq h
  rw [exec_encode_ready h, hseq]
  rfl

/-- The atomic ENCODE of a ready state. -/
theorem exec_encode_atomic {base : Addr} {len : BitVec 24} {s : State} {k : EncConfig} (hseq : s.params.sequenced = false)
    (h : EncodeReady base len s.enc k) :
    exec (.encode base len) s = .next { s with enc := encodeAtOnce k s.buf base len s.enc } := by
  rw [exec_encode_ready h, hseq]
  rfl

/-! ### The calls of an ENCODE by position -/

/-- In a concatenation of blocks of one length, the block is found by its number. -/
theorem getElem?_flatMap_of_length {α β : Type} {f : α → List β} {w : Nat} (hf : ∀ a, (f a).length = w) {l : List α}
    {i n : Nat} {a : α} (ha : l[i]? = some a) (hn : n < w) : (l.flatMap f)[i * w + n]? = (f a)[n]? := by
  induction l generalizing i with
  | nil => cases ha
  | cons x l ih =>
    rw [List.flatMap_cons]
    cases i with
    | zero =>
      obtain rfl : x = a := Option.some.inj ha
      rw [List.getElem?_append_left (by rw [hf]; omega), Nat.zero_mul, Nat.zero_add]
    | succ i =>
      rw [List.getElem?_append_right (by rw [hf, Nat.succ_mul]; omega), hf,
        show (i + 1) * w + n - w = i * w + n by rw [Nat.succ_mul]; omega]
      exact ih ha

theorem Memory.getElem?_bytes {m : Memory} {base len i : Nat} (h : i < len) :
    (Memory.bytes m base len)[i]? = some (Memory.read m (base + i)) := by
  rw [Memory.bytes, List.getElem?_map, List.getElem?_range h, Option.map_some]

/-- The pulses of a byte begin with its data bits. -/
theorem getElem?_byteBits_data {k : EncConfig} {v : Byte} {n : Nat} (h : n < k.width.toNat) :
    (byteBits k v)[n]? = some (dataBit k v n) := by
  rw [byteBits, List.getElem?_append_left (by rw [length_dataBits]; exact h), dataBits, List.getElem?_map,
    List.getElem?_range h, Option.map_some]

/-- And end with its parity pulse, where the mode has one. -/
theorem getElem?_byteBits_parity (k : EncConfig) (v : Byte) :
    (byteBits k v)[k.width.toNat]? = parityPulse k.parity (byteParity k v) := by
  rw [byteBits, List.getElem?_append_right (by rw [length_dataBits]), length_dataBits, Nat.sub_self]
  cases parityPulse k.parity (byteParity k v) <;> rfl

theorem pulse_eq (k : EncConfig) (b : Bool) :
    pulse k b = if b then ⟨k.param, k.oneMark, k.oneSpace⟩ else ⟨k.param, k.zeroMark, k.zeroSpace⟩ := by
  cases b <;> rfl

/-- The parity pulse in the words of 41_encoder R114, from the number of set bits. -/
theorem parityPulse_byteParity {k : EncConfig} (v : Byte) (h : k.parity ≠ .none) : parityPulse k.parity (byteParity k v) =
    some (match k.parity with
      | .none | .space => false
      | .mark => true
      | .odd => decide (setBits k.width.toNat v % 2 = 0)
      | .even => decide (setBits k.width.toNat v % 2 = 1)) := by
  cases hp : k.parity
  case none => exact absurd hp h
  case mark => rfl
  case space => rfl
  case odd => exact congrArg some (byteParity_xor_true k v)
  case even => exact congrArg some (byteParity_eq_odd_setBits k v)

/-- The calls before the first byte (41_encoder R115). -/
def headCalls (k : EncConfig) : List SinkCall := List.replicate k.sync.toNat (pulse k false) ++ [pulse k true]

@[simp] theorem length_headCalls (k : EncConfig) : (headCalls k).length = k.sync.toNat + 1 := by
  rw [headCalls, List.length_append, List.length_replicate, List.length_singleton]

/-- The calls of an ENCODE: those before the bytes, those of the bytes, the two markers. -/
theorem encodeCalls_eq_append (k : EncConfig) (bytes : List Byte) : encodeCalls k bytes =
    headCalls k ++ ((bytes.flatMap (byteBits k)).map (pulse k) ++ [pulse k false, idleMarker k]) := by
  rw [encodeCalls_eq, headCalls, List.append_assoc, List.append_assoc]
  rfl

@[simp] theorem length_encodeCalls (k : EncConfig) (bytes : List Byte) :
    (encodeCalls k bytes).length = k.sync.toNat + 1 + bytes.length * pulsesPerByte k + 2 := by
  rw [encodeCalls_eq_append, List.length_append, length_headCalls, List.length_append, List.length_map,
    length_flatMap_byteBits]
  rfl

/-- Where the pulses of the bytes stand among the calls: after the preamble and the start pulse (41_encoder R118). -/
theorem getElem?_encodeCalls_bytes {k : EncConfig} {m : Memory} {base len i n : Nat} (hi : i < len)
    (hn : n < pulsesPerByte k) :
    (encodeCalls k (Memory.bytes m base len))[k.sync.toNat + 1 + i * pulsesPerByte k + n]? =
      (byteBits k (Memory.read m (base + i)))[n]?.map (pulse k) := by
  have hlt : i * pulsesPerByte k + n < len * pulsesPerByte k := by
    have := Nat.mul_le_mul_right (pulsesPerByte k) hi
    rw [Nat.succ_mul] at this
    omega
  have hbits : ((Memory.bytes m base len).flatMap (byteBits k))[i * pulsesPerByte k + n]? =
      (byteBits k (Memory.read m (base + i)))[n]? :=
    getElem?_flatMap_of_length (length_byteBits k) (Memory.getElem?_bytes hi) hn
  rw [encodeCalls_eq_append, Nat.add_assoc (k.sync.toNat + 1), ← length_headCalls,
    List.getElem?_append_right (Nat.le_add_right _ _), Nat.add_sub_cancel_left, List.getElem?_append_left, List.getElem?_map,
    hbits]
  rw [List.length_map, length_flatMap_byteBits, Memory.length_bytes]
  exact hlt

/-- The data pulse of bit `n` of byte `i`, at its place (41_encoder R112, R118). -/
theorem getElem?_encodeCalls_data {k : EncConfig} {m : Memory} {base len i n : Nat} (hi : i < len)
    (hn : n < k.width.toNat) :
    (encodeCalls k (Memory.bytes m base len))[k.sync.toNat + 1 + i * pulsesPerByte k + n]? =
      some (pulse k (dataBit k (Memory.read m (base + i)) n)) := by
  rw [getElem?_encodeCalls_bytes hi (Nat.lt_of_lt_of_le hn (Nat.le_add_right _ _)), getElem?_byteBits_data hn,
    Option.map_some]

theorem getElem?_of_last_two {α : Type} (l : List α) (a b : α) :
    (l ++ [a, b])[(l ++ [a, b]).length - 2]? = some a ∧ (l ++ [a, b])[(l ++ [a, b]).length - 1]? = some b := by
  simp

/-- The calls of an ENCODE are its pulse train (41_encoder R118). -/
theorem pulseTrain_encodeCalls (k : EncConfig) (m : Memory) (base len : Nat) :
    PulseTrain k m base len (encodeCalls k (Memory.bytes m base len)) where
  count := by rw [length_encodeCalls, Memory.length_bytes]
  preamble j hj := by
    rw [encodeCalls_eq_append, List.getElem?_append_left (by rw [length_headCalls]; omega), headCalls,
      List.getElem?_append_left (by rw [List.length_replicate]; exact hj), List.getElem?_replicate, if_pos hj]
    rfl
  start := by
    rw [encodeCalls_eq_append, List.getElem?_append_left (by rw [length_headCalls]; omega), headCalls,
      List.getElem?_append_right (by rw [List.length_replicate]), List.length_replicate, Nat.sub_self]
    rfl
  data i hi n hn := by
    rw [getElem?_encodeCalls_data hi hn]
    exact congrArg some (pulse_eq k _)
  parity i hi hp := by
    have hwidth : k.width.toNat < pulsesPerByte k := by rw [pulsesPerByte, if_neg hp]; omega
    rw [getElem?_encodeCalls_bytes hi hwidth, getElem?_byteBits_parity, parityPulse_byteParity _ hp]
    exact congrArg some (pulse_eq k _)
  endMark := by
    rw [encodeCalls_eq]
    exact (getElem?_of_last_two _ _ _).1
  idleMark := by
    rw [encodeCalls_eq]
    exact (getElem?_of_last_two _ _ _).2

/-- Settles O29: the appended calls are the pulse train, and the atomic form writes nothing else outside its sequencer. -/
theorem encodeEmitsThePulseTrain : Obligations.EncodeEmitsThePulseTrain := by
  intro base len s k hseq h
  exact ⟨_, _, exec_encode_atomic hseq h, rfl, pulseTrain_encodeCalls k s.buf base.toNat len.toNat, rfl, rfl, rfl, rfl, rfl,
    rfl, rfl, rfl, rfl, rfl, fun _ => rfl⟩

/-- Settles O32: the calls are a function of the configuration and of the bytes read. -/
theorem encodeOutputDependsOnlyOnContextAndBytes : Obligations.EncodeOutputDependsOnlyOnContextAndBytes := by
  intro base len s s' t hseq hseq' hidle htimes hsync hwidth horder hparity hparam hbytes h
  obtain ⟨k, hs, hk, hw, hb, -⟩ := execEncode_next.mp h
  have hready : EncodeReady base len s.enc k := encodeReady_iff.mpr ⟨hs, hk, hw, hb⟩
  have hready' : EncodeReady base len s'.enc k :=
    ⟨hidle, htimes.trans hready.times, hsync.trans hready.sync, hwidth.trans hready.width, horder.trans hready.order,
      hparity.trans hready.parity, hparam.trans hready.param, hready.legal, hready.inBuf⟩
  have hsame : Memory.bytes s'.buf base.toNat len.toNat = Memory.bytes s.buf base.toNat len.toNat :=
    List.map_congr_left fun i hi => hbytes i (List.mem_range.mp hi)
  have h' := exec_encode_atomic hseq' hready'
  refine ⟨_, _, h', exec_encode_sinkLog hseq hready h, ?_⟩
  rw [exec_encode_sinkLog hseq' hready' h', hsame]

/-! ### The calls determine the bytes -/

/-- Where a one-pulse differs from a zero-pulse, a pulse determines its bit. -/
theorem pulse_injective {k : EncConfig} (hne : (k.zeroMark, k.zeroSpace) ≠ (k.oneMark, k.oneSpace)) {a b : Bool}
    (h : pulse k a = pulse k b) : a = b := by
  have hpulse : pulse k false ≠ pulse k true := fun heq => hne (by
    obtain ⟨-, hmark, hspace⟩ := SinkCall.mk.inj heq
    rw [hmark, hspace])
  cases a <;> cases b
  case false.true => exact absurd h hpulse
  case true.false => exact absurd h.symm hpulse
  all_goals rfl

/-- Each of the low `w` bits of a byte is sent, in either order (41_encoder R112). -/
theorem exists_bitIndex_eq (order : BitOrder) {w b : Nat} (h : b < w) : ∃ n < w, bitIndex order w n = b := by
  cases order with
  | lsbFirst => exact ⟨b, h, rfl⟩
  | msbFirst => exact ⟨w - 1 - b, by omega, by simp only [bitIndex]; omega⟩

/-- Settles O33: the data pulse at the place of each bit determines the bit. -/
theorem encodedCallsDetermineTheBytes : Obligations.EncodedCallsDetermineTheBytes := by
  intro base len s s' t t' k calls hseq hseq' hr hr' hne h h' hcalls hcalls' i hi b hb
  have hfirst := List.append_cancel_left (hcalls.symm.trans (exec_encode_sinkLog hseq hr h))
  have hsecond := List.append_cancel_left (hcalls'.symm.trans (exec_encode_sinkLog hseq' hr' h'))
  obtain ⟨n, hn, rfl⟩ := exists_bitIndex_eq k.order hb
  have hpulse := (getElem?_encodeCalls_data (m := s.buf) (base := base.toNat) hi hn).symm.trans
    (congrArg (·[k.sync.toNat + 1 + i * pulsesPerByte k + n]?) (hfirst.symm.trans hsecond))
  rw [getElem?_encodeCalls_data hi hn] at hpulse
  exact pulse_injective hne (Option.some.inj hpulse)

end Sys2Proof.Machine
end

section
/-! PROOFS. The sequencer, run to its end, is the atomic ENCODE (spec/41_encoder.md R120). -/

namespace Sys2Proof.Machine

/-! ### Runs of the sequencer -/

/-- `n` turns of the sequencer, each from a phase other than E_IDLE, lead from one unit ENC to another. -/
inductive Turns (k : EncConfig) (m : Memory) : Nat → Enc → Enc → Prop where
  | refl (e : Enc) : Turns k m 0 e e
  | step {n : Nat} {e e' e'' : Enc} (hp : e.phase ≠ .idle) (hq : sequence k m e = .ok e') (rest : Turns k m n e' e'') :
      Turns k m (n + 1) e e''

section
variable {k : EncConfig} {m : Memory} {e e' e'' : Enc} {a b n : Nat}

theorem Turns.single (hp : e.phase ≠ .idle) (hq : sequence k m e = .ok e') : Turns k m 1 e e' :=
  .step hp hq (.refl e')

theorem Turns.trans (h : Turns k m a e e') (h' : Turns k m b e' e'') : Turns k m (a + b) e e'' := by
  induction h with
  | refl e => rw [Nat.zero_add]; exact h'
  | step hp hq _ ih => rw [Nat.succ_add]; exact .step hp hq (ih h')

/-- Turns of the sequencer are steps of the machine, one input each. -/
theorem Turns.run (h : Turns k m n e e') (hk : e.config = some k) (hw : widthLegal k.width = true) {s : State}
    (hbuf : s.buf = m) :
    Sys2Proof.core.run n { s with enc := e, inputs := List.replicate n .encStep } =
      .next { s with enc := e', inputs := [] } := by
  induction h with
  | refl e => rfl
  | @step n e e₁ _ hp hq _ ih =>
    have hstep : encStep { s with enc := e, inputs := List.replicate n .encStep } =
        .next { s with enc := e₁, inputs := List.replicate n .encStep } :=
      encStep_next.mpr ⟨hp, k, e₁, hk, hw, hbuf ▸ hq, rfl⟩
    have hcore : Sys2Proof.core.step { s with enc := e, inputs := List.replicate (n + 1) .encStep } =
        .next { s with enc := e₁, inputs := List.replicate n .encStep } := hstep
    simp only [Host.Core.run, hcore]
    exact ih ((sequence_keeps hq).1.trans hk)

/-! ### The preamble -/

/-- The preamble takes one turn for each zero-pulse (41_encoder R115). -/
theorem turns_sync (hp : e.phase = .sync) (hn : e.syncLeft.toNat = n + 1) : Turns k m (n + 1) e { e with
    syncLeft := 0, phase := .start, sinkLog := e.sinkLog ++ List.replicate (n + 1) (pulse k false) } := by
  have hne : e.phase ≠ .idle := by rw [hp]; nofun
  have hq := sequence_sync (k := k) (m := m) hp
  induction n generalizing e with
  | zero =>
    have h0 : e.syncLeft - 1 = 0 := by bv_omega
    rw [h0, if_pos rfl] at hq
    exact .single hne hq
  | succ n ih =>
    have h0 : e.syncLeft - 1 ≠ 0 := by bv_omega
    have hn' : (e.syncLeft - 1).toNat = n + 1 := by bv_omega
    rw [if_neg h0] at hq
    have hrest := ih (e := { e with
      syncLeft := e.syncLeft - 1, sinkLog := e.sinkLog ++ [pulse k false], phase := .sync }) rfl hn' nofun
      (sequence_sync rfl)
    rw [List.replicate_succ, List.append_cons]
    exact .step hne hq hrest

/-- A started encode comes to the start pulse with its preamble sent, none included. -/
theorem turns_preamble {base : Addr} {len : BitVec 24} : Turns k m k.sync.toNat (encodeStart k base len e) { e with
    base := base, len := len, syncLeft := 0, byteIdx := 0, phase := .start,
    sinkLog := e.sinkLog ++ List.replicate k.sync.toNat (pulse k false) } := by
  unfold encodeStart
  by_cases h0 : k.sync = 0
  · have hempty : e.sinkLog ++ List.replicate k.sync.toNat (pulse k false) = e.sinkLog := by
      rw [h0]
      exact List.append_nil _
    rw [hempty, if_pos h0, h0]
    exact .refl _
  · obtain ⟨n, hn⟩ : ∃ n, k.sync.toNat = n + 1 := ⟨k.sync.toNat - 1, by bv_omega⟩
    rw [if_neg h0, hn]
    exact turns_sync (e := { e with base := base, len := len, syncLeft := k.sync, byteIdx := 0, phase := .sync }) rfl hn

/-! ### The pulses of one byte -/

/-- Unit ENC with the first `j` data pulses of its byte sent. -/
def dataSentTo (k : EncConfig) (e : Enc) (j : Nat) : Enc := { e with
  bitCnt := BitVec.ofNat 4 j
  par := runningParity ((dataBits k e.byte).take j)
  sinkLog := e.sinkLog ++ ((dataBits k e.byte).take j).map (pulse k) }

theorem dataSentTo_zero (hbit : e.bitCnt = 0) (hpar : e.par = false) : dataSentTo k e 0 = e := by
  simp only [dataSentTo, List.take_zero, runningParity_nil, List.map_nil, List.append_nil, ← hpar]
  rw [show BitVec.ofNat 4 0 = e.bitCnt from hbit.symm]

theorem take_dataBits_succ {v : Byte} {j : Nat} (hj : j < k.width.toNat) :
    (dataBits k v).take (j + 1) = (dataBits k v).take j ++ [dataBit k v j] := by
  rw [List.take_add_one, dataBits, List.getElem?_map, List.getElem?_range hj]
  rfl

/-- One more data pulse. -/
theorem dataSent_dataSentTo {j : Nat} (hj : j < k.width.toNat) :
    dataSent k (dataSentTo k e j) = dataSentTo k e (j + 1) := by
  have hbit : (BitVec.ofNat 4 j).toNat = j := by
    have := k.width.isLt
    rw [BitVec.toNat_ofNat, Nat.mod_eq_of_lt (by omega)]
  have hsucc : BitVec.ofNat 4 j + 1 = BitVec.ofNat 4 (j + 1) := by rw [BitVec.ofNat_add]; rfl
  simp only [dataSent, dataSentTo, emitCall, hbit, hsucc, take_dataBits_succ hj, runningParity_concat, List.map_append,
    List.map_cons, List.map_nil, List.append_assoc]

/-- The data pulses but the last, each in a turn of its own (41_encoder R120). -/
theorem turns_data {j : Nat} (hp : e.phase = .data) (hbit : e.bitCnt = 0) (hpar : e.par = false)
    (hj : j < k.width.toNat) : Turns k m j e (dataSentTo k e j) := by
  induction j with
  | zero => rw [dataSentTo_zero hbit hpar]; exact .refl e
  | succ j ih =>
    have hmore : BitVec.ofNat 4 j + 1 ≠ k.width := fun heq => by
      have := k.width.isLt
      rw [← heq] at hj
      bv_omega
    have hturn : sequence k m (dataSentTo k e j) = .ok (dataSentTo k e (j + 1)) := by
      rw [sequence_data_more (e := dataSentTo k e j) hp hmore, dataSent_dataSentTo (by omega)]
    exact (ih (by omega)).trans (.single (by rw [show (dataSentTo k e j).phase = .data from hp]; nofun) hturn)

/-- Unit ENC with all pulses of its byte sent. -/
def byteSent (k : EncConfig) (e : Enc) : Enc := { e with
  bitCnt := k.width
  par := byteParity k e.byte
  sinkLog := e.sinkLog ++ (byteBits k e.byte).map (pulse k) }

/-- `next_byte()` does not look at the phase it is called in. -/
theorem nextByte_phase (m : Memory) (e : Enc) (phase : EncPhase) : nextByte m { e with phase := phase } = nextByte m e := by
  unfold nextByte
  dsimp only
  split
  · rfl
  · rfl

/-- A byte takes as many turns as it has pulses, and then the next byte is begun or the bytes are at their end. -/
theorem turns_byte (hp : e.phase = .data) (hbit : e.bitCnt = 0) (hpar : e.par = false) (hw : widthLegal k.width = true)
    (hnext : nextByte m (byteSent k e) = .ok e') : Turns k m (pulsesPerByte k) e e' := by
  obtain ⟨hpos, -⟩ := widthLegal_iff.mp hw
  obtain ⟨j, hj⟩ : ∃ j, k.width.toNat = j + 1 := ⟨k.width.toNat - 1, by omega⟩
  have hall : (dataBits k e.byte).take (j + 1) = dataBits k e.byte := by
    rw [List.take_of_length_le]
    rw [length_dataBits, hj]
  have hlast : BitVec.ofNat 4 j + 1 = k.width := by bv_omega
  have hwidth : BitVec.ofNat 4 (j + 1) = k.width := by bv_omega
  have hsent : dataSent k (dataSentTo k e j) = { e with
      bitCnt := k.width, par := byteParity k e.byte, sinkLog := e.sinkLog ++ (dataBits k e.byte).map (pulse k) } := by
    rw [dataSent_dataSentTo (k := k) (by omega), dataSentTo, hall, hwidth]
    rfl
  have hdata := turns_data (k := k) (m := m) (j := j) hp hbit hpar (by omega)
  have hphase : (dataSentTo k e j).phase = .data := hp
  have hne : (dataSentTo k e j).phase ≠ .idle := by rw [hphase]; nofun
  by_cases hmode : k.parity = .none
  · have hcount : pulsesPerByte k = j + 1 := by rw [pulsesPerByte, if_pos hmode, hj]
    have hbits : byteBits k e.byte = dataBits k e.byte := byteBits_of_parityPulse_none (by rw [hmode]; rfl)
    rw [byteSent, hbits, ← hsent, ← sequence_data_last hphase hlast hmode] at hnext
    rw [hcount]
    exact hdata.trans (.single hne hnext)
  · have hcount : pulsesPerByte k = j + 1 + 1 := by rw [pulsesPerByte, if_neg hmode, hj]
    have hturn := sequence_data_parity (m := m) hphase hlast hmode
    rw [hsent] at hturn
    have hparity := sequence_parity (k := k) (m := m) (e := { e with
      phase := .parity, bitCnt := k.width, par := byteParity k e.byte,
      sinkLog := e.sinkLog ++ (dataBits k e.byte).map (pulse k) }) rfl
    rw [List.append_assoc, ← List.map_append] at hparity
    have hsame := nextByte_phase m (byteSent k e) .parity
    rw [hcount]
    exact (hdata.trans (.single hne hturn)).trans (.single (by nofun) (hparity.trans (hsame.trans hnext)))

/-! ### The bytes -/

/-- Unit ENC as `begin_byte()` leaves it at the byte of the given index (41_encoder R120). -/
def byteBegun (m : Memory) (e : Enc) (idx : BitVec 24) : Enc := { e with
  byteIdx := idx, byte := Memory.read m (e.base.toNat + idx.toNat), bitCnt := 0, par := false, phase := .data }

/-- Unit ENC with the pulses of all its bytes sent, where `bytes` are those from the current one on. -/
def bytesSent (k : EncConfig) (e : Enc) (bytes : List Byte) : Enc := { e with
  phase := .endMark
  byteIdx := e.len
  byte := bytes.getLast?.getD e.byte
  bitCnt := k.width
  par := (bytes.getLast?.map (byteParity k)).getD e.par
  sinkLog := e.sinkLog ++ (bytes.flatMap (byteBits k)).map (pulse k) }

/-- The last byte. -/
theorem bytesSent_singleton (k : EncConfig) (e : Enc) :
    bytesSent k e [e.byte] = { byteSent k e with byteIdx := e.len, phase := .endMark } := by
  simp only [bytesSent, byteSent, List.flatMap_singleton]
  rfl

/-- The first of several bytes, with the next one begun. -/
theorem bytesSent_cons (k : EncConfig) (m : Memory) (e : Enc) (idx : BitVec 24) (w : Byte) (rest : List Byte) :
    bytesSent k e (e.byte :: w :: rest) = bytesSent k (byteBegun m (byteSent k e) idx) (w :: rest) := by
  obtain ⟨x, hx⟩ : ∃ x, (w :: rest).getLast? = some x := ⟨_, List.getLast?_eq_some_getLast (List.cons_ne_nil w rest)⟩
  rw [bytesSent, List.getLast?_cons_cons, List.flatMap_cons, List.map_append, ← List.append_assoc, hx]
  simp only [bytesSent, byteBegun, byteSent, hx]
  rfl

theorem Memory.bytes_succ (m : Memory) (base n : Nat) :
    Memory.bytes m base (n + 1) = Memory.read m base :: Memory.bytes m (base + 1) n := by
  simp only [Memory.bytes, List.range_succ_eq_map, List.map_cons, List.map_map, Nat.add_zero]
  refine congrArg _ (List.map_congr_left fun i _ => ?_)
  rw [Function.comp_apply, Nat.succ_eq_add_one, Nat.add_comm i 1, Nat.add_assoc]

/-- From the beginning of a byte to the end marker: the pulses of that byte and of the `n` after it. -/
theorem turns_bytes (hw : widthLegal k.width = true) (hin : e.base.toNat + e.len.toNat - 1 < 2 ^ 32)
    (hp : e.phase = .data) (hbit : e.bitCnt = 0) (hpar : e.par = false)
    (hbyte : e.byte = Memory.read m (e.base.toNat + e.byteIdx.toNat))
    (hn : e.len.toNat = e.byteIdx.toNat + (n + 1)) :
    Turns k m ((n + 1) * pulsesPerByte k) e
      (bytesSent k e (Memory.bytes m (e.base.toNat + e.byteIdx.toNat) (n + 1))) := by
  induction n generalizing e with
  | zero =>
    have hsucc : (e.byteIdx + 1).toNat = e.byteIdx.toNat + 1 := byteIdx_succ (by omega)
    have hend : e.byteIdx + 1 = e.len := BitVec.eq_of_toNat_eq (by omega)
    have hnext : nextByte m (byteSent k e) = .ok { byteSent k e with byteIdx := e.byteIdx + 1, phase := .endMark } :=
      nextByte_ok.mpr (.inl ⟨hend, rfl⟩)
    have hbytes : Memory.bytes m (e.base.toNat + e.byteIdx.toNat) 1 = [e.byte] := by rw [Memory.bytes_succ, hbyte]; rfl
    rw [Nat.one_mul, hbytes, bytesSent_singleton, ← hend]
    exact turns_byte hp hbit hpar hw hnext
  | succ n ih =>
    have hsucc : (e.byteIdx + 1).toNat = e.byteIdx.toNat + 1 := byteIdx_succ (by omega)
    have hmore : e.byteIdx + 1 ≠ e.len := fun heq => by
      rw [heq] at hsucc
      omega
    have hexists : e.base.toNat + (e.byteIdx + 1).toNat < 2 ^ 32 := by omega
    have hnext : nextByte m (byteSent k e) = .ok (byteBegun m (byteSent k e) (e.byteIdx + 1)) :=
      nextByte_ok.mpr (.inr ⟨hmore, beginByte_ok.mpr ⟨hexists, rfl⟩⟩)
    have hrest := ih (e := byteBegun m (byteSent k e) (e.byteIdx + 1)) hin rfl rfl rfl rfl
      (show e.len.toNat = (e.byteIdx + 1).toNat + (n + 1) by omega)
    have hbytes : Memory.bytes m (e.base.toNat + e.byteIdx.toNat) (n + 1 + 1) =
        e.byte :: Memory.bytes m (e.base.toNat + (e.byteIdx + 1).toNat) (n + 1) := by
      rw [Memory.bytes_succ, hbyte, hsucc, Nat.add_assoc]
    rw [hbytes, Memory.bytes_succ, bytesSent_cons k m e (e.byteIdx + 1), ← Memory.bytes_succ, Nat.succ_mul, Nat.add_comm]
    exact (turns_byte hp hbit hpar hw hnext).trans hrest

/-! ### The whole encode -/

/-- Unit ENC with the start pulse sent and the first byte begun. -/
def firstByte (k : EncConfig) (m : Memory) (e : Enc) : Enc := byteBegun m (emitCall (pulse k true) e) 0

/-- Unit ENC with the start pulse and the bytes sent, before the end marker. -/
def bodySent (k : EncConfig) (e : Enc) (bytes : List Byte) : Enc := { e with
  phase := .endMark
  byteIdx := e.len
  byte := bytes.getLast?.getD e.byte
  bitCnt := if bytes.isEmpty then e.bitCnt else k.width
  par := (bytes.getLast?.map (byteParity k)).getD e.par
  sinkLog := e.sinkLog ++ pulse k true :: (bytes.flatMap (byteBits k)).map (pulse k) }

theorem bytesSent_firstByte (k : EncConfig) (m : Memory) (e : Enc) (v : Byte) (rest : List Byte) :
    bytesSent k (firstByte k m e) (v :: rest) = bodySent k e (v :: rest) := by
  obtain ⟨x, hx⟩ : ∃ x, (v :: rest).getLast? = some x := ⟨_, List.getLast?_eq_some_getLast (List.cons_ne_nil v rest)⟩
  simp only [bytesSent, bodySent, firstByte, byteBegun, emitCall, hx, List.append_assoc]
  rfl

/-- From the start pulse to the end marker (41_encoder R110): the start pulse, then the bytes, where there are any. -/
theorem turns_start (hw : widthLegal k.width = true) (hb : bufferInRange e.base e.len = true) (hp : e.phase = .start)
    (hidx : e.byteIdx = 0) : Turns k m (1 + e.len.toNat * pulsesPerByte k) e
      (bodySent k e (Memory.bytes m e.base.toNat e.len.toNat)) := by
  have hne : e.phase ≠ .idle := by rw [hp]; nofun
  by_cases hlen : e.len = 0
  · have hzero : e.len.toNat = 0 := by rw [hlen]; rfl
    have hq : sequence k m e = .ok (bodySent k e []) := by
      simp only [sequence_start_empty hp hlen, bodySent, emitCall, hlen, hidx]
      rfl
    rw [hzero, Nat.zero_mul]
    exact .single hne hq
  · obtain ⟨n, hn⟩ : ∃ n, e.len.toNat = n + 1 := ⟨e.len.toNat - 1, by bv_omega⟩
    have hin : e.base.toNat + e.len.toNat - 1 < 2 ^ 32 := (bufferInRange_iff.mp hb).resolve_left (by omega)
    have hq : sequence k m e = .ok (firstByte k m e) := by
      rw [sequence_start hp hlen]
      exact beginByte_ok.mpr ⟨e.base.isLt, rfl⟩
    have hrest := turns_bytes (k := k) (m := m) (n := n) (e := firstByte k m e) hw hin rfl rfl rfl rfl
      (hn.trans (Nat.zero_add _).symm)
    rw [Memory.bytes_succ, bytesSent_firstByte, ← Memory.bytes_succ, ← hn] at hrest
    exact (Turns.single hne hq).trans hrest

/-- The two markers end the encode (41_encoder R116, R117). -/
theorem turns_markers (hp : e.phase = .endMark) :
    Turns k m 2 e { e with phase := .idle, sinkLog := e.sinkLog ++ [pulse k false, idleMarker k] } := by
  have hne : e.phase ≠ .idle := by rw [hp]; nofun
  have hidle := sequence_idleMark (k := k) (m := m) (e := { emitCall (pulse k false) e with phase := .idleMark }) rfl
  rw [emitCall, emitCall, List.append_assoc] at hidle
  exact (Turns.single hne (sequence_endMark hp)).trans (.single (by nofun) hidle)

/-- A started encode, run to its end, is the atomic ENCODE (41_encoder R120). -/
theorem turns_encode {base : Addr} {len : BitVec 24} (hw : widthLegal k.width = true)
    (hb : bufferInRange base len = true) :
    Turns k m (k.sync.toNat + (1 + len.toNat * pulsesPerByte k) + 2) (encodeStart k base len e)
      (encodeAtOnce k m base len e) := by
  have hbody := (turns_preamble (m := m) (e := e)).trans
    (turns_start (m := m) (e := { e with
      base := base, len := len, syncLeft := 0, byteIdx := 0, phase := .start,
      sinkLog := e.sinkLog ++ List.replicate k.sync.toNat (pulse k false) }) hw hb rfl rfl)
  have hall := hbody.trans (turns_markers rfl)
  rw [encodeAtOnce, encodeCalls_eq, ← List.append_assoc, ← List.append_assoc]
  exact hall

end

/-- Settles O31: both are the same unit ENC, after as many turns as the atomic form makes calls. -/
theorem sequencerRefinesAtomicEncode : Obligations.SequencerRefinesAtomicEncode := by
  intro base len s t v k hseq h ht hv
  have hstart := exec_encode_ready h
  rw [hseq, if_pos rfl] at hstart
  have hatomic := exec_encode_atomic (s := { s with params := { s.params with sequenced := false } }) rfl h
  obtain rfl : t = { s with enc := encodeStart k base len s.enc } := Host.Outcome.next.inj (ht.symm.trans hstart)
  obtain rfl := Host.Outcome.next.inj (hv.symm.trans hatomic)
  obtain ⟨-, hk, hw, hb⟩ := encodeReady_iff.mp h
  have hturns := turns_encode (m := s.buf) (e := s.enc) hw hb
  rw [← Nat.add_assoc] at hturns
  exact hturns.run hk hw rfl

end Sys2Proof.Machine
end
